-- ==== Sys2Proof/Word.lean ====
section
/-! DEFINITION. The machine's word types: a 20-bit word, a 16-bit address container, a 13-bit field. -/

namespace Sys2Proof

/-- A word: 20 bits, bit 0 the least significant (00_scope.md R5, R7; 20_memory.md R40). The data registers
`A`, `X`, `BR`, `IR` hold one (10_state.md R11). -/
abbrev Word := BitVec 20

/-- The 16-bit container of `SP`, `PC` and `AR` (10_state.md R12). -/
abbrev Addr := BitVec 16

/-- The 13-bit operand/address field of an instruction, and the width of `I` (00_scope.md R5). -/
abbrev Field := BitVec 13

end Sys2Proof
end

