-- ==== Sys2Proof/Config.lean ====
section
/-! DEFINITION. What an implementation fixes (the parameters of 00_scope.md R6) and the free values: constants with no
body, of which nothing can be proved. The parameters' default values are `Config.std` in Decode.lean. -/

namespace Sys2Proof

/-- `OPC` (30_encoding.md R63, parameter of 00_scope.md R6): the 5-bit opcode number of each of the 31 opcode groups. -/
structure OpcodeMap where
  nop : BitVec 5
  lda : BitVec 5
  ldx : BitVec 5
  ldi : BitVec 5
  sta : BitVec 5
  stx : BitVec 5
  sti : BitVec 5
  ena : BitVec 5
  stack : BitVec 5
  incDec : BitVec 5
  eni : BitVec 5
  lsp : BitVec 5
  ada : BitVec 5
  sub : BitVec 5
  and : BitVec 5
  ora : BitVec 5
  xor : BitVec 5
  cma : BitVec 5
  jmp : BitVec 5
  jpn : BitVec 5
  jag : BitVec 5
  jpz : BitVec 5
  jpo : BitVec 5
  jsr : BitVec 5
  jig : BitVec 5
  shift : BitVec 5
  ssp : BitVec 5
  shiftPair : BitVec 5
  io : BitVec 5
  ret : BitVec 5
  hlt : BitVec 5
  deriving DecidableEq, Repr

/-- `SUBCODE` (00_scope.md R6; 30_encoding.md R64, R65): for each member of the five families the value of the bits that
select it, and the bit that selects in the stack family, which the document does not name (93_implementation_defined.md
U2). It states the selecting bits of the other four (R64), whose number is the width of their fields. -/
structure SubcodeMap where
  stackBit : Fin 13
  psh : BitVec 1
  pop : BitVec 1
  ina : BitVec 3
  inx : BitVec 3
  ini : BitVec 3
  dca : BitVec 3
  dcx : BitVec 3
  dci : BitVec 3
  shal : BitVec 2
  shar : BitVec 2
  shxl : BitVec 2
  shxr : BitVec 2
  saxl : BitVec 1
  saxr : BitVec 1
  inp : BitVec 1
  out : BitVec 1
  deriving DecidableEq, Repr

/-- `SUB_MODE` (00_scope.md R6, 43_arithmetic_logic.md R170): how `SUB` complements `BR`. -/
inductive SubMode where
  | literal
  | ones
  deriving DecidableEq, Repr

/-- The parameters that are fixed for a run (00_scope.md R6, 10_state.md R32), `MEMLEN` apart, which the load sets
with memory. Held in `State.cfg`, so that a statement over every state ranges over every value of them. -/
structure Config where
  opc     : OpcodeMap
  sub     : SubcodeMap
  subMode : SubMode
  jigMask : Field
  deriving DecidableEq, Repr

/-- `JSR_HIGH` (44_control_transfer.md R198, D13): bits 19 to 13 of the word the `n`-th draw's `JSR` stores.
A free value (assumption log 11). -/
opaque Config.jsrHigh : Nat → BitVec 7

/-- `SC` at a moment where 10_state.md R22 leaves it unspecified (D17). A free value (assumption log 12). -/
opaque Config.microStep : Nat → BitVec 2

end Sys2Proof
end

