-- ==== Sys2Proof/Syntax.lean ====
section
/-! DEFINITION. Instructions: the addressing modifiers, the opcode groups, the mnemonics and the 42 instructions. -/

namespace Sys2Proof

/-- The two addressing flags of an instruction word (30_encoding.md R60, R81): `n` (bit 14) asks for the INDIRECT
phase, `x` (bit 13) for the INDEXED phase. -/
structure Mode where
  n : Bool
  x : Bool
  deriving DecidableEq, Repr

/-- The 31 opcode groups (30_encoding.md R62), in the order of R63. -/
inductive Group where
  | nop
  | lda
  | ldx
  | ldi
  | sta
  | stx
  | sti
  | ena
  | stack
  | incDec
  | eni
  | lsp
  | ada
  | sub
  | and
  | ora
  | xor
  | cma
  | jmp
  | jpn
  | jag
  | jpz
  | jpo
  | jsr
  | jig
  | shift
  | ssp
  | shiftPair
  | io
  | ret
  | hlt
  deriving DecidableEq, Repr

/-- The 42 mnemonics (30_encoding.md R62). -/
inductive Mnemonic where
  | nop
  | lda
  | ldx
  | ldi
  | sta
  | stx
  | sti
  | ena
  | psh
  | pop
  | ina
  | inx
  | ini
  | dca
  | dcx
  | dci
  | eni
  | lsp
  | ada
  | sub
  | and
  | ora
  | xor
  | cma
  | jmp
  | jpn
  | jag
  | jpz
  | jpo
  | jsr
  | jig
  | shal
  | shar
  | shxl
  | shxr
  | ssp
  | saxl
  | saxr
  | inp
  | out
  | ret
  | hlt
  deriving DecidableEq, Repr

/-- One constructor per row of spec/opcode_table.json. `mode` holds the two flag bits, `operand` the 13-bit operand field
of the mnemonics that take one (30_encoding.md R72), `ignored` the operand bits that do not select the member
of a family or that a no-operand instruction carries (R67). -/
inductive Instr where
  | nop (mode : Mode) (ignored : BitVec 13)
  | lda (mode : Mode) (operand : Field)
  | ldx (mode : Mode) (operand : Field)
  | ldi (mode : Mode) (operand : Field)
  | sta (mode : Mode) (operand : Field)
  | stx (mode : Mode) (operand : Field)
  | sti (mode : Mode) (operand : Field)
  | ena (mode : Mode) (operand : Field)
  | psh (mode : Mode) (ignored : BitVec 12)
  | pop (mode : Mode) (ignored : BitVec 12)
  | ina (mode : Mode) (ignored : BitVec 10)
  | inx (mode : Mode) (ignored : BitVec 10)
  | ini (mode : Mode) (ignored : BitVec 10)
  | dca (mode : Mode) (ignored : BitVec 10)
  | dcx (mode : Mode) (ignored : BitVec 10)
  | dci (mode : Mode) (ignored : BitVec 10)
  | eni (mode : Mode) (operand : Field)
  | lsp (mode : Mode) (operand : Field)
  | ada (mode : Mode) (operand : Field)
  | sub (mode : Mode) (operand : Field)
  | and (mode : Mode) (operand : Field)
  | ora (mode : Mode) (operand : Field)
  | xor (mode : Mode) (operand : Field)
  | cma (mode : Mode) (ignored : BitVec 13)
  | jmp (mode : Mode) (operand : Field)
  | jpn (mode : Mode) (operand : Field)
  | jag (mode : Mode) (operand : Field)
  | jpz (mode : Mode) (operand : Field)
  | jpo (mode : Mode) (operand : Field)
  | jsr (mode : Mode) (operand : Field)
  | jig (mode : Mode) (operand : Field)
  | shal (mode : Mode) (ignored : BitVec 11)
  | shar (mode : Mode) (ignored : BitVec 11)
  | shxl (mode : Mode) (ignored : BitVec 11)
  | shxr (mode : Mode) (ignored : BitVec 11)
  | ssp (mode : Mode) (operand : Field)
  | saxl (mode : Mode) (ignored : BitVec 12)
  | saxr (mode : Mode) (ignored : BitVec 12)
  | inp (mode : Mode) (ignored : BitVec 12)
  | out (mode : Mode) (ignored : BitVec 12)
  | ret (mode : Mode) (ignored : BitVec 13)
  | hlt (mode : Mode) (ignored : BitVec 13)
  deriving DecidableEq, Repr

end Sys2Proof
end

