-- ==== Sys2Proof/WellFormed.lean ====
section
/-! DEFINITION. Which configurations the spec allows, and which instructions are as the encoder writes them. -/

namespace Sys2Proof

/-- The 31 opcode numbers in group order. -/
def OpcodeMap.values (o : OpcodeMap) : List (BitVec 5) :=
  [o.nop, o.lda, o.ldx, o.ldi, o.sta, o.stx, o.sti, o.ena,
   o.stack, o.incDec, o.eni, o.lsp, o.ada, o.sub, o.and, o.ora,
   o.xor, o.cma, o.jmp, o.jpn, o.jag, o.jpz, o.jpo, o.jsr,
   o.jig, o.shift, o.ssp, o.shiftPair, o.io, o.ret, o.hlt]

/-- `OPC` is injective (30_encoding.md R63). -/
def OpcodeMap.injective (o : OpcodeMap) : Bool := decide o.values.Nodup

/-- `SUBCODE` is injective in each family (30_encoding.md R65). -/
def SubcodeMap.injective (c : SubcodeMap) : Bool :=
  decide [c.psh, c.pop].Nodup &&
  decide [c.ina, c.inx, c.ini, c.dca, c.dcx, c.dci].Nodup &&
  decide [c.shal, c.shar, c.shxl, c.shxr].Nodup &&
  decide [c.saxl, c.saxr].Nodup &&
  decide [c.inp, c.out].Nodup

/-- A configuration the spec allows: the two maps are injective (30_encoding.md R63, R65). -/
def Config.wf (c : Config) : Bool := c.opc.injective && c.sub.injective

/-- An instruction as the encoder of 30_encoding.md R73 writes it: every ignored bit (R67) is 0. -/
def Instr.wf (i : Instr) : Bool :=
  match i with
  | .nop _ ignored => ignored == 0
  | .lda _ _ => true
  | .ldx _ _ => true
  | .ldi _ _ => true
  | .sta _ _ => true
  | .stx _ _ => true
  | .sti _ _ => true
  | .ena _ _ => true
  | .psh _ ignored => ignored == 0
  | .pop _ ignored => ignored == 0
  | .ina _ ignored => ignored == 0
  | .inx _ ignored => ignored == 0
  | .ini _ ignored => ignored == 0
  | .dca _ ignored => ignored == 0
  | .dcx _ ignored => ignored == 0
  | .dci _ ignored => ignored == 0
  | .eni _ _ => true
  | .lsp _ _ => true
  | .ada _ _ => true
  | .sub _ _ => true
  | .and _ _ => true
  | .ora _ _ => true
  | .xor _ _ => true
  | .cma _ ignored => ignored == 0
  | .jmp _ _ => true
  | .jpn _ _ => true
  | .jag _ _ => true
  | .jpz _ _ => true
  | .jpo _ _ => true
  | .jsr _ _ => true
  | .jig _ _ => true
  | .shal _ ignored => ignored == 0
  | .shar _ ignored => ignored == 0
  | .shxl _ ignored => ignored == 0
  | .shxr _ ignored => ignored == 0
  | .ssp _ _ => true
  | .saxl _ ignored => ignored == 0
  | .saxr _ ignored => ignored == 0
  | .inp _ ignored => ignored == 0
  | .out _ ignored => ignored == 0
  | .ret _ ignored => ignored == 0
  | .hlt _ ignored => ignored == 0

end Sys2Proof
end

