-- ==== Sys2Proof/Decode.lean ====
section
/-! DEFINITION. The spec's default opcode numbers and sub-codes, the decoder (total on 20-bit words, rejecting by name)
and, after it, the encoder of 30_encoding.md R73. -/

namespace Sys2Proof

/-- The spec's default `OPC`: the groups numbered 0 to 30 in the order of 30_encoding.md R63, 31 unassigned
(assumption log 1). -/
def OpcodeMap.std : OpcodeMap where
  nop := 0
  lda := 1
  ldx := 2
  ldi := 3
  sta := 4
  stx := 5
  sti := 6
  ena := 7
  stack := 8
  incDec := 9
  eni := 10
  lsp := 11
  ada := 12
  sub := 13
  and := 14
  ora := 15
  xor := 16
  cma := 17
  jmp := 18
  jpn := 19
  jag := 20
  jpz := 21
  jpo := 22
  jsr := 23
  jig := 24
  shift := 25
  ssp := 26
  shiftPair := 27
  io := 28
  ret := 29
  hlt := 30

/-- The spec's default `SUBCODE` (30_encoding.md R65; assumption log 2). -/
def SubcodeMap.std : SubcodeMap where
  stackBit := 0
  psh := 0
  pop := 1
  ina := 0
  inx := 1
  ini := 2
  dca := 3
  dcx := 4
  dci := 5
  shal := 0
  shar := 1
  shxl := 2
  shxr := 3
  saxl := 0
  saxr := 1
  inp := 0
  out := 1

/-- The spec's default parameters (00_scope.md R6; assumption logs 1, 2 and 3). -/
def Config.std : Config where
  opc     := OpcodeMap.std
  sub     := SubcodeMap.std
  subMode := .literal
  jigMask := 0x1FF8

/-- The opcode number of a group. -/
def OpcodeMap.get (o : OpcodeMap) (g : Group) : BitVec 5 :=
  match g with
  | .nop => o.nop
  | .lda => o.lda
  | .ldx => o.ldx
  | .ldi => o.ldi
  | .sta => o.sta
  | .stx => o.stx
  | .sti => o.sti
  | .ena => o.ena
  | .stack => o.stack
  | .incDec => o.incDec
  | .eni => o.eni
  | .lsp => o.lsp
  | .ada => o.ada
  | .sub => o.sub
  | .and => o.and
  | .ora => o.ora
  | .xor => o.xor
  | .cma => o.cma
  | .jmp => o.jmp
  | .jpn => o.jpn
  | .jag => o.jag
  | .jpz => o.jpz
  | .jpo => o.jpo
  | .jsr => o.jsr
  | .jig => o.jig
  | .shift => o.shift
  | .ssp => o.ssp
  | .shiftPair => o.shiftPair
  | .io => o.io
  | .ret => o.ret
  | .hlt => o.hlt

/-- Every group, in the order of 30_encoding.md R63. -/
def Group.all : List Group :=
  [.nop, .lda, .ldx, .ldi, .sta, .stx, .sti, .ena,
   .stack, .incDec, .eni, .lsp, .ada, .sub, .and, .ora,
   .xor, .cma, .jmp, .jpn, .jag, .jpz, .jpo, .jsr,
   .jig, .shift, .ssp, .shiftPair, .io, .ret, .hlt]

/-- The group whose opcode number is `op`, if any (40_instruction_cycle.md R108). -/
def OpcodeMap.group? (o : OpcodeMap) (op : BitVec 5) : Option Group :=
  Group.all.find? fun g => o.get g == op

/-- The `opcode` field, bits 19 to 15: `(w >> 15) & 0x1F` (30_encoding.md R61). -/
def opcodeField (w : Word) : BitVec 5 := w.extractLsb' 15 5

/-- The low 13 bits of a word, `w & 0x1FFF`: the operand field (30_encoding.md R61) and the mask of every load of
`PC`, `SP`, `I` and `AR` from a 20-bit source (10_state.md R12). -/
def low13 (w : Word) : Field := w.setWidth 13

/-- The two flag bits: `n` is bit 14, `x` is bit 13 (30_encoding.md R61). -/
def modeField (w : Word) : Mode := ⟨w.getLsbD 14, w.getLsbD 13⟩

/-- What a word decodes to: an instruction, an opcode of no group (30_encoding.md R69), or a sub-code of no member
of its family (R66). -/
inductive Decoded where
  | ok (i : Instr)
  | invalidOpcode (op : BitVec 5)
  | reservedSubcode (g : Group) (sub : BitVec 3)
  deriving DecidableEq, Repr

/-- The operand field without its bit `k`, the bits above it moved down by one: the ignored bits of a family that bit
`k` selects in (30_encoding.md R67). -/
def withoutBit (k : Fin 13) (f : Field) : BitVec 12 :=
  BitVec.ofNat 12 (f.toNat / 2 ^ (k.val + 1) * 2 ^ k.val + f.toNat % 2 ^ k.val)

/-- The operand field whose bit `k` is `sub`, its other bits 0 (30_encoding.md R73). -/
def atBit (k : Fin 13) (sub : BitVec 1) : Field := sub.setWidth 13 <<< k.val

/-- The member of the group of `PSH`, `POP` that the family's selecting bit selects, `IR[0]` by default (30_encoding.md R64,
R65; assumption log 2). -/
def decodeStack (c : SubcodeMap) (m : Mode) (f : Field) : Decoded :=
  let sub : BitVec 1 := f.extractLsb' c.stackBit.val 1
  let ignored : BitVec 12 := withoutBit c.stackBit f
  if sub = c.psh then .ok (.psh m ignored)
  else if sub = c.pop then .ok (.pop m ignored)
  else .reservedSubcode .stack (sub.setWidth 3)

/-- The member of the group of `INA`, `INX`, `INI`, `DCA`, `DCX`, `DCI` that `IR[2:0]` selects (30_encoding.md R64, R65). -/
def decodeIncDec (c : SubcodeMap) (m : Mode) (f : Field) : Decoded :=
  let sub : BitVec 3 := f.setWidth 3
  let ignored : BitVec 10 := f.extractLsb' 3 10
  if sub = c.ina then .ok (.ina m ignored)
  else if sub = c.inx then .ok (.inx m ignored)
  else if sub = c.ini then .ok (.ini m ignored)
  else if sub = c.dca then .ok (.dca m ignored)
  else if sub = c.dcx then .ok (.dcx m ignored)
  else if sub = c.dci then .ok (.dci m ignored)
  else .reservedSubcode .incDec (sub.setWidth 3)

/-- The member of the group of `SHAL`, `SHAR`, `SHXL`, `SHXR` that `IR[1:0]` selects (30_encoding.md R64, R65). -/
def decodeShift (c : SubcodeMap) (m : Mode) (f : Field) : Decoded :=
  let sub : BitVec 2 := f.setWidth 2
  let ignored : BitVec 11 := f.extractLsb' 2 11
  if sub = c.shal then .ok (.shal m ignored)
  else if sub = c.shar then .ok (.shar m ignored)
  else if sub = c.shxl then .ok (.shxl m ignored)
  else if sub = c.shxr then .ok (.shxr m ignored)
  else .reservedSubcode .shift (sub.setWidth 3)

/-- The member of the group of `SAXL`, `SAXR` that `IR[0]` selects (30_encoding.md R64, R65). -/
def decodeShiftPair (c : SubcodeMap) (m : Mode) (f : Field) : Decoded :=
  let sub : BitVec 1 := f.setWidth 1
  let ignored : BitVec 12 := f.extractLsb' 1 12
  if sub = c.saxl then .ok (.saxl m ignored)
  else if sub = c.saxr then .ok (.saxr m ignored)
  else .reservedSubcode .shiftPair (sub.setWidth 3)

/-- The member of the group of `INP`, `OUT` that `IR[0]` selects (30_encoding.md R64, R65). -/
def decodeIo (c : SubcodeMap) (m : Mode) (f : Field) : Decoded :=
  let sub : BitVec 1 := f.setWidth 1
  let ignored : BitVec 12 := f.extractLsb' 1 12
  if sub = c.inp then .ok (.inp m ignored)
  else if sub = c.out then .ok (.out m ignored)
  else .reservedSubcode .io (sub.setWidth 3)

/-- The instruction of group `g` in the word `w` (40_instruction_cycle.md R108). -/
def decodeGroup (c : SubcodeMap) (g : Group) (w : Word) : Decoded :=
  match g with
  | .nop => .ok (.nop (modeField w) (low13 w))
  | .lda => .ok (.lda (modeField w) (low13 w))
  | .ldx => .ok (.ldx (modeField w) (low13 w))
  | .ldi => .ok (.ldi (modeField w) (low13 w))
  | .sta => .ok (.sta (modeField w) (low13 w))
  | .stx => .ok (.stx (modeField w) (low13 w))
  | .sti => .ok (.sti (modeField w) (low13 w))
  | .ena => .ok (.ena (modeField w) (low13 w))
  | .stack => decodeStack c (modeField w) (low13 w)
  | .incDec => decodeIncDec c (modeField w) (low13 w)
  | .eni => .ok (.eni (modeField w) (low13 w))
  | .lsp => .ok (.lsp (modeField w) (low13 w))
  | .ada => .ok (.ada (modeField w) (low13 w))
  | .sub => .ok (.sub (modeField w) (low13 w))
  | .and => .ok (.and (modeField w) (low13 w))
  | .ora => .ok (.ora (modeField w) (low13 w))
  | .xor => .ok (.xor (modeField w) (low13 w))
  | .cma => .ok (.cma (modeField w) (low13 w))
  | .jmp => .ok (.jmp (modeField w) (low13 w))
  | .jpn => .ok (.jpn (modeField w) (low13 w))
  | .jag => .ok (.jag (modeField w) (low13 w))
  | .jpz => .ok (.jpz (modeField w) (low13 w))
  | .jpo => .ok (.jpo (modeField w) (low13 w))
  | .jsr => .ok (.jsr (modeField w) (low13 w))
  | .jig => .ok (.jig (modeField w) (low13 w))
  | .shift => decodeShift c (modeField w) (low13 w)
  | .ssp => .ok (.ssp (modeField w) (low13 w))
  | .shiftPair => decodeShiftPair c (modeField w) (low13 w)
  | .io => decodeIo c (modeField w) (low13 w)
  | .ret => .ok (.ret (modeField w) (low13 w))
  | .hlt => .ok (.hlt (modeField w) (low13 w))

/-- The decoder (30_encoding.md R61, R64, R66, R69; 40_instruction_cycle.md R108): total on 20-bit words. -/
def decode (c : Config) (w : Word) : Decoded :=
  match c.opc.group? (opcodeField w) with
  | some g => decodeGroup c.sub g w
  | none   => .invalidOpcode (opcodeField w)

/-- The instruction an instruction word of the opcode table is read as, under the spec's default parameters; a number
that does not fit in the 20 bits of an instruction is none. -/
def decodeTableWord (_nbits w : Nat) : Option Instr :=
  if w < 2 ^ 20 then
    match decode Config.std (BitVec.ofNat 20 w) with
    | .ok i => some i
    | .invalidOpcode _ => none
    | .reservedSubcode _ _ => none
  else none

/-- The group of a mnemonic (30_encoding.md R62). -/
def Mnemonic.group (m : Mnemonic) : Group :=
  match m with
  | .nop => .nop
  | .lda => .lda
  | .ldx => .ldx
  | .ldi => .ldi
  | .sta => .sta
  | .stx => .stx
  | .sti => .sti
  | .ena => .ena
  | .psh => .stack
  | .pop => .stack
  | .ina => .incDec
  | .inx => .incDec
  | .ini => .incDec
  | .dca => .incDec
  | .dcx => .incDec
  | .dci => .incDec
  | .eni => .eni
  | .lsp => .lsp
  | .ada => .ada
  | .sub => .sub
  | .and => .and
  | .ora => .ora
  | .xor => .xor
  | .cma => .cma
  | .jmp => .jmp
  | .jpn => .jpn
  | .jag => .jag
  | .jpz => .jpz
  | .jpo => .jpo
  | .jsr => .jsr
  | .jig => .jig
  | .shal => .shift
  | .shar => .shift
  | .shxl => .shift
  | .shxr => .shift
  | .ssp => .ssp
  | .saxl => .shiftPair
  | .saxr => .shiftPair
  | .inp => .io
  | .out => .io
  | .ret => .ret
  | .hlt => .hlt

/-- Which groups take an explicit operand (30_encoding.md R72): 22 of the 31. -/
def Group.takesOperand (g : Group) : Bool :=
  match g with
  | .nop => false
  | .lda => true
  | .ldx => true
  | .ldi => true
  | .sta => true
  | .stx => true
  | .sti => true
  | .ena => true
  | .stack => false
  | .incDec => false
  | .eni => true
  | .lsp => true
  | .ada => true
  | .sub => true
  | .and => true
  | .ora => true
  | .xor => true
  | .cma => false
  | .jmp => true
  | .jpn => true
  | .jag => true
  | .jpz => true
  | .jpo => true
  | .jsr => true
  | .jig => true
  | .shift => false
  | .ssp => true
  | .shiftPair => false
  | .io => false
  | .ret => false
  | .hlt => false

/-- The operand field the encoder writes for a mnemonic that takes no operand: the sub-code of a member of a family,
0 for `NOP`, `CMA`, `RET` and `HLT`, and 0 where an operand stands instead (30_encoding.md R73, R74). -/
def Mnemonic.subcode (c : SubcodeMap) (m : Mnemonic) : Field :=
  match m with
  | .nop => 0
  | .lda => 0
  | .ldx => 0
  | .ldi => 0
  | .sta => 0
  | .stx => 0
  | .sti => 0
  | .ena => 0
  | .psh => atBit c.stackBit c.psh
  | .pop => atBit c.stackBit c.pop
  | .ina => c.ina.setWidth 13
  | .inx => c.inx.setWidth 13
  | .ini => c.ini.setWidth 13
  | .dca => c.dca.setWidth 13
  | .dcx => c.dcx.setWidth 13
  | .dci => c.dci.setWidth 13
  | .eni => 0
  | .lsp => 0
  | .ada => 0
  | .sub => 0
  | .and => 0
  | .ora => 0
  | .xor => 0
  | .cma => 0
  | .jmp => 0
  | .jpn => 0
  | .jag => 0
  | .jpz => 0
  | .jpo => 0
  | .jsr => 0
  | .jig => 0
  | .shal => c.shal.setWidth 13
  | .shar => c.shar.setWidth 13
  | .shxl => c.shxl.setWidth 13
  | .shxr => c.shxr.setWidth 13
  | .ssp => 0
  | .saxl => c.saxl.setWidth 13
  | .saxr => c.saxr.setWidth 13
  | .inp => c.inp.setWidth 13
  | .out => c.out.setWidth 13
  | .ret => 0
  | .hlt => 0

/-- `opcode<<15 | n<<14 | x<<13 | field`, the instruction word layout (30_encoding.md R60). -/
def packWord (op : BitVec 5) (m : Mode) (field : Field) : Word :=
  op ++ BitVec.ofBool m.n ++ BitVec.ofBool m.x ++ field

/-- The encoder `encode(m, n, x, v)` of 30_encoding.md R73; the caller gives the operand already masked to 13 bits. -/
def encodeFields (c : Config) (m : Mnemonic) (mode : Mode) (v : Field) : Word :=
  packWord (c.opc.get m.group) mode (if m.group.takesOperand then v else m.subcode c.sub)

/-- The mnemonic of an instruction. -/
def Instr.mnemonic (i : Instr) : Mnemonic :=
  match i with
  | .nop _ _ => .nop
  | .lda _ _ => .lda
  | .ldx _ _ => .ldx
  | .ldi _ _ => .ldi
  | .sta _ _ => .sta
  | .stx _ _ => .stx
  | .sti _ _ => .sti
  | .ena _ _ => .ena
  | .psh _ _ => .psh
  | .pop _ _ => .pop
  | .ina _ _ => .ina
  | .inx _ _ => .inx
  | .ini _ _ => .ini
  | .dca _ _ => .dca
  | .dcx _ _ => .dcx
  | .dci _ _ => .dci
  | .eni _ _ => .eni
  | .lsp _ _ => .lsp
  | .ada _ _ => .ada
  | .sub _ _ => .sub
  | .and _ _ => .and
  | .ora _ _ => .ora
  | .xor _ _ => .xor
  | .cma _ _ => .cma
  | .jmp _ _ => .jmp
  | .jpn _ _ => .jpn
  | .jag _ _ => .jag
  | .jpz _ _ => .jpz
  | .jpo _ _ => .jpo
  | .jsr _ _ => .jsr
  | .jig _ _ => .jig
  | .shal _ _ => .shal
  | .shar _ _ => .shar
  | .shxl _ _ => .shxl
  | .shxr _ _ => .shxr
  | .ssp _ _ => .ssp
  | .saxl _ _ => .saxl
  | .saxr _ _ => .saxr
  | .inp _ _ => .inp
  | .out _ _ => .out
  | .ret _ _ => .ret
  | .hlt _ _ => .hlt

/-- The addressing flags of an instruction. -/
def Instr.mode (i : Instr) : Mode :=
  match i with
  | .nop mode _ => mode
  | .lda mode _ => mode
  | .ldx mode _ => mode
  | .ldi mode _ => mode
  | .sta mode _ => mode
  | .stx mode _ => mode
  | .sti mode _ => mode
  | .ena mode _ => mode
  | .psh mode _ => mode
  | .pop mode _ => mode
  | .ina mode _ => mode
  | .inx mode _ => mode
  | .ini mode _ => mode
  | .dca mode _ => mode
  | .dcx mode _ => mode
  | .dci mode _ => mode
  | .eni mode _ => mode
  | .lsp mode _ => mode
  | .ada mode _ => mode
  | .sub mode _ => mode
  | .and mode _ => mode
  | .ora mode _ => mode
  | .xor mode _ => mode
  | .cma mode _ => mode
  | .jmp mode _ => mode
  | .jpn mode _ => mode
  | .jag mode _ => mode
  | .jpz mode _ => mode
  | .jpo mode _ => mode
  | .jsr mode _ => mode
  | .jig mode _ => mode
  | .shal mode _ => mode
  | .shar mode _ => mode
  | .shxl mode _ => mode
  | .shxr mode _ => mode
  | .ssp mode _ => mode
  | .saxl mode _ => mode
  | .saxr mode _ => mode
  | .inp mode _ => mode
  | .out mode _ => mode
  | .ret mode _ => mode
  | .hlt mode _ => mode

/-- The operand of an instruction that takes one; 0 for one that takes none. -/
def Instr.operand (i : Instr) : Field :=
  match i with
  | .nop _ _ => 0
  | .lda _ v => v
  | .ldx _ v => v
  | .ldi _ v => v
  | .sta _ v => v
  | .stx _ v => v
  | .sti _ v => v
  | .ena _ v => v
  | .psh _ _ => 0
  | .pop _ _ => 0
  | .ina _ _ => 0
  | .inx _ _ => 0
  | .ini _ _ => 0
  | .dca _ _ => 0
  | .dcx _ _ => 0
  | .dci _ _ => 0
  | .eni _ v => v
  | .lsp _ v => v
  | .ada _ v => v
  | .sub _ v => v
  | .and _ v => v
  | .ora _ v => v
  | .xor _ v => v
  | .cma _ _ => 0
  | .jmp _ v => v
  | .jpn _ v => v
  | .jag _ v => v
  | .jpz _ v => v
  | .jpo _ v => v
  | .jsr _ v => v
  | .jig _ v => v
  | .shal _ _ => 0
  | .shar _ _ => 0
  | .shxl _ _ => 0
  | .shxr _ _ => 0
  | .ssp _ v => v
  | .saxl _ _ => 0
  | .saxr _ _ => 0
  | .inp _ _ => 0
  | .out _ _ => 0
  | .ret _ _ => 0
  | .hlt _ _ => 0

/-- The instruction with this mnemonic, these flags and this operand, its ignored bits 0 (30_encoding.md R73). -/
def Instr.ofMnemonic (m : Mnemonic) (mode : Mode) (v : Field) : Instr :=
  match m with
  | .nop => .nop mode 0
  | .lda => .lda mode v
  | .ldx => .ldx mode v
  | .ldi => .ldi mode v
  | .sta => .sta mode v
  | .stx => .stx mode v
  | .sti => .sti mode v
  | .ena => .ena mode v
  | .psh => .psh mode 0
  | .pop => .pop mode 0
  | .ina => .ina mode 0
  | .inx => .inx mode 0
  | .ini => .ini mode 0
  | .dca => .dca mode 0
  | .dcx => .dcx mode 0
  | .dci => .dci mode 0
  | .eni => .eni mode v
  | .lsp => .lsp mode v
  | .ada => .ada mode v
  | .sub => .sub mode v
  | .and => .and mode v
  | .ora => .ora mode v
  | .xor => .xor mode v
  | .cma => .cma mode 0
  | .jmp => .jmp mode v
  | .jpn => .jpn mode v
  | .jag => .jag mode v
  | .jpz => .jpz mode v
  | .jpo => .jpo mode v
  | .jsr => .jsr mode v
  | .jig => .jig mode v
  | .shal => .shal mode 0
  | .shar => .shar mode 0
  | .shxl => .shxl mode 0
  | .shxr => .shxr mode 0
  | .ssp => .ssp mode v
  | .saxl => .saxl mode 0
  | .saxr => .saxr mode 0
  | .inp => .inp mode 0
  | .out => .out mode 0
  | .ret => .ret mode 0
  | .hlt => .hlt mode 0

/-- The word the encoder composes from an instruction: its ignored bits are written 0 (30_encoding.md R73). -/
def encode (c : Config) (i : Instr) : Word := encodeFields c i.mnemonic i.mode i.operand

/-- The spelling of a mnemonic, upper-cased (30_encoding.md R62, R74). -/
def Mnemonic.name (m : Mnemonic) : String :=
  match m with
  | .nop => "NOP"
  | .lda => "LDA"
  | .ldx => "LDX"
  | .ldi => "LDI"
  | .sta => "STA"
  | .stx => "STX"
  | .sti => "STI"
  | .ena => "ENA"
  | .psh => "PSH"
  | .pop => "POP"
  | .ina => "INA"
  | .inx => "INX"
  | .ini => "INI"
  | .dca => "DCA"
  | .dcx => "DCX"
  | .dci => "DCI"
  | .eni => "ENI"
  | .lsp => "LSP"
  | .ada => "ADA"
  | .sub => "SUB"
  | .and => "AND"
  | .ora => "ORA"
  | .xor => "XOR"
  | .cma => "CMA"
  | .jmp => "JMP"
  | .jpn => "JPN"
  | .jag => "JAG"
  | .jpz => "JPZ"
  | .jpo => "JPO"
  | .jsr => "JSR"
  | .jig => "JIG"
  | .shal => "SHAL"
  | .shar => "SHAR"
  | .shxl => "SHXL"
  | .shxr => "SHXR"
  | .ssp => "SSP"
  | .saxl => "SAXL"
  | .saxr => "SAXR"
  | .inp => "INP"
  | .out => "OUT"
  | .ret => "RET"
  | .hlt => "HLT"

/-- Every mnemonic. -/
def Mnemonic.all : List Mnemonic :=
  [.nop, .lda, .ldx, .ldi, .sta, .stx, .sti, .ena,
   .psh, .pop, .ina, .inx, .ini, .dca, .dcx, .dci,
   .eni, .lsp, .ada, .sub, .and, .ora, .xor, .cma,
   .jmp, .jpn, .jag, .jpz, .jpo, .jsr, .jig, .shal,
   .shar, .shxl, .shxr, .ssp, .saxl, .saxr, .inp, .out,
   .ret, .hlt]

end Sys2Proof
end

