-- ==== Sys2Proof/Machine/State.lean ====
section
/-! DEFINITION. The machine's state as plain data (10_state.md), the reasons a step can stop, and the state after reset. -/

namespace Sys2Proof.Machine

/-- The phase register `F` (10_state.md R21): FETCH=00, INDEXED=01, INDIRECT=10, EXECUTE=11. -/
inductive Phase where
  | fetch
  | indexed
  | indirect
  | execute
  deriving DecidableEq, Repr

/-- The two runtime errors and what the spec records of each (60_exceptions.md R231). -/
inductive RuntimeError where
  | outOfBounds (a : Addr)
  | invalidOpcode (op : BitVec 5)
  deriving DecidableEq, Repr

/-- The run status (10_state.md R30); `idle` is "not running until `start()`" (R31). -/
inductive Status where
  | idle
  | running
  | waitingInput
  | halted
  | faulted (e : RuntimeError)
  | stopped
  deriving DecidableEq, Repr

/-- Why no step is made: the run loop is not iterating (10_state.md R30, 70_reset_and_hazards.md R264). The state such a run ended
in is the state before the step, which the machine keeps (assumption logs 7 and 14). -/
inductive Fault where
  /-- Raised by `step` when the status is `idle`: nothing was started (10_state.md R31). Safe. -/
  | notStarted
  /-- Raised by `step` when the status is `halted`: `HLT` ended the run (44_control_transfer.md R204). Safe. -/
  | halted
  /-- Raised by `step` when the status is `stopped`: the host's interruption ended the run (60_exceptions.md R243). Safe. -/
  | stopped
  /-- Raised by `step` when the status is `faulted e`: the runtime error `e` ended the run (60_exceptions.md R231). Safe. -/
  | runtimeError (e : RuntimeError)
  deriving DecidableEq, Repr

/-- What the spec gives no meaning to. -/
inductive Refusal where
  /-- Raised by an arm of `exec` whose instruction has no meaning in the model; no arm does. Safe. -/
  | notModelled (mnemonic : String)
  /-- Raised by the EXECUTE phase for a sub-code that no member of the family has (30_encoding.md R66). Safe. -/
  | reservedSubcode (g : Group) (sub : BitVec 3)
  /-- Raised by the host call `load` for an image over 8192 words (70_reset_and_hazards.md R262). Safe. -/
  | imageTooLong
  /-- Raised by the host call `load` on a running or waiting core (20_memory.md R54, 93_implementation_defined.md U20). Safe. -/
  | loadWhileRunning
  /-- Raised by the host call `start` on a run that is under way or has ended, and was not loaded since
  (70_reset_and_hazards.md R264, 93_implementation_defined.md U19). Safe. -/
  | startWithoutLoad
  /-- Raised by the host call `setInput` while no `INP` waits (46_io.md R223). Safe. -/
  | inputNotRequested
  deriving DecidableEq, Repr

/-- Memory: the words that are not 0, as (word address, word) pairs. The canonical form and the operations are in
Machine/Memory.lean (assumption log 6). -/
abbrev Memory := List (Nat × Word)

/-- The state (10_state.md R10). The last four fields are the model's own (INVENTORY.md): the parameters, the
host's draws and requests. -/
structure State where
  a           : Word
  x           : Word
  br          : Word
  ir          : Word
  sp          : Addr
  i           : Field
  pc          : Addr
  ar          : Addr
  f           : Phase
  sc          : BitVec 2
  clock       : Nat
  flagV       : Bool
  flagZ       : Bool
  flagS       : Bool
  flagH       : Bool
  mem         : Memory
  memLen      : Nat
  status      : Status
  output      : List Word
  cfg         : Config
  input       : List Nat
  interruptIn : Option Nat
  draws       : Nat
  deriving DecidableEq, Repr

/-- The outcome of a step or of a meaning. -/
abbrev Out := Host.Outcome State Fault Refusal

/-- The state after reset at engine construction (10_state.md R31, 70_reset_and_hazards.md R260, R261): every register 0, not
running. No image has been loaded, so no word of memory exists yet (assumption log 5); the model's own fields
are as assumption logs 4, 9, 10 and 13 say. -/
def State.reset : State where
  a           := 0
  x           := 0
  br          := 0
  ir          := 0
  sp          := 0
  i           := 0
  pc          := 0
  ar          := 0
  f           := .fetch
  sc          := 0
  clock       := 0
  flagV       := false
  flagZ       := false
  flagS       := false
  flagH       := false
  mem         := []
  memLen      := 0
  status      := .idle
  output      := []
  cfg         := Config.std
  input       := []
  interruptIn := none
  draws       := 0

end Sys2Proof.Machine
end

