-- ==== Sys2Proof/Machine/Flags.lean ====
section
/-! DEFINITION. The flag computations: overflow (43_arithmetic_logic.md R161) and the flag-update step
(40_instruction_cycle.md R112). -/

namespace Sys2Proof.Machine

/-- `ovf(a, b, r)`: the operands have the same sign and the result the other (43_arithmetic_logic.md R161). -/
def ovf (a b r : Word) : Bool := a.msb == b.msb && r.msb != a.msb

/-- The flag-update step: `SC <- 0`, `Z` and `S` from `A` (40_instruction_cycle.md R112). -/
def flagUpdate (s : State) : State :=
  { s with sc := 0, flagZ := s.a == 0, flagS := s.a.msb }

/-- `r <- (A + b) & 0xFFFFF; V <- ovf(A, b, r); A <- r`, the addition of `INA`, `DCA`, `ADA` and `SUB`
(43_arithmetic_logic.md R160, R161). -/
def addToA (b : Word) (s : State) : State :=
  { s with a := s.a + b, flagV := ovf s.a b (s.a + b) }

end Sys2Proof.Machine
end

