-- ==== Sys2Proof/Machine/Memory.lean ====
section
/-! DEFINITION. Memory as a canonical list of (address, word) pairs: addresses strictly rising, no word 0. -/

namespace Sys2Proof.Machine

/-- What a word that nothing wrote reads as: 0 (70_reset_and_hazards.md R262, 30_encoding.md R87, R88, R90). -/
def Memory.unlisted : Word := 0

/-- The word at address `k`. -/
def Memory.get (m : Memory) (k : Nat) : Word :=
  match m with
  | [] => Memory.unlisted
  | (j, w) :: rest => if j = k then w else Memory.get rest k

/-- The memory with `v` at address `k`, in canonical form: a word that reads as an unlisted one is not listed. -/
def Memory.set (m : Memory) (k : Nat) (v : Word) : Memory :=
  match m with
  | [] => if v = Memory.unlisted then [] else [(k, v)]
  | (j, w) :: rest =>
    if k < j then
      if v = Memory.unlisted then (j, w) :: rest else (k, v) :: (j, w) :: rest
    else if k = j then
      if v = Memory.unlisted then rest else (k, v) :: rest
    else (j, w) :: Memory.set rest k v

/-- The canonical form: addresses strictly rising, and no entry equal to what an unlisted address reads as. -/
def Memory.wf (m : Memory) : Bool :=
  match m with
  | [] => true
  | (j, w) :: rest =>
    w != Memory.unlisted && rest.all (fun c => decide (j < c.1)) && Memory.wf rest

/-- Every listed address is below `n`. -/
def Memory.below (m : Memory) (n : Nat) : Bool := m.all fun c => decide (c.1 < n)

/-- The memory that holds the words of an image at the addresses from `k` up (70_reset_and_hazards.md R262). -/
def Memory.ofImage (k : Nat) (image : List Word) : Memory :=
  match image with
  | [] => []
  | w :: rest =>
    if w = Memory.unlisted then Memory.ofImage (k + 1) rest
    else (k, w) :: Memory.ofImage (k + 1) rest

end Sys2Proof.Machine
end

