-- ==== Sys2Proof/Machine/Ops.lean ====
section
/-! DEFINITION. The operations the meanings share: the memory interface (20_memory.md R43, R44), raising a runtime
error (60_exceptions.md R231, R233), the end of EXECUTE (40_instruction_cycle.md R109), the drawn values. -/

namespace Sys2Proof.Machine

/-- A 13-bit address in a 16-bit container, its high bits 0 (10_state.md R12). -/
def addrOfField (v : Field) : Addr := v.setWidth 16

/-- `v & 0x1FFF` of a 20-bit source, as an address (10_state.md R12). -/
def addrOfWord (w : Word) : Addr := addrOfField (low13 w)

/-- `sext_20` of a 13-bit value (00_scope.md R7). -/
def sext20 (v : Field) : Word := v.signExtend 20

/-- `SC` where the spec leaves it unspecified (10_state.md R22): a free value (assumption log 12). -/
def freeSc (s : State) : State :=
  { s with sc := Config.microStep s.draws, draws := s.draws + 1 }

/-- The run status set (10_state.md R30). -/
def setStatus (st : Status) (s : State) : State := { s with status := st }

/-- Taking a runtime error, `raise E` (60_exceptions.md R231): the status becomes `Faulted(E)`; nothing else is written,
and `SC` is unspecified (10_state.md R22). The transfers before it are kept, because `s` is the state they left
(R233). There is no return from it: only a load goes on (R237). -/
def raise (e : RuntimeError) (s : State) : Out :=
  .next (setStatus (.faulted e) (freeSc s))

/-- An address is valid when it is below `MEMLEN` (20_memory.md R41). -/
def State.valid (s : State) (addr : Addr) : Bool := decide (addr.toNat < s.memLen)

/-- `MemRead(addr, 1)` and then `k` of the word (20_memory.md R43). -/
def memRead (addr : Addr) (s : State) (k : Word → Out) : Out :=
  if s.valid addr then k (s.mem.get addr.toNat) else raise (.outOfBounds addr) s

/-- `MemWrite(addr, 1, v)` and then `k` of the state (20_memory.md R44). -/
def memWrite (addr : Addr) (v : Word) (s : State) (k : State → Out) : Out :=
  if s.valid addr then k { s with mem := s.mem.set addr.toNat v } else raise (.outOfBounds addr) s

/-- The end of EXECUTE of every instruction but `RET` and `HLT`: `F <- FETCH` and the flag-update step
(40_instruction_cycle.md R109, R112). -/
def endExecute (s : State) : Out := .next (flagUpdate { s with f := .fetch })

/-- `BR <- MemRead(AR, 1)` and then `k`, the start of every instruction that reads its operand from memory
(20_memory.md R45). -/
def loadBR (s : State) (k : State → Out) : Out := memRead s.ar s fun w => k { s with br := w }

/-- `MemWrite(AR, 1, BR)` and the end of EXECUTE, the end of every store from `BR` (20_memory.md R45). -/
def storeBR (s : State) : Out := memWrite s.ar s.br s endExecute

/-- `PC <- BR & 0x1FFF`, the transfer of every jump that takes its target from `BR` (44_control_transfer.md R191, R192). -/
def jumpBR (s : State) : State := { s with pc := addrOfWord s.br }

/-- `SP <- (SP + 1) mod 2^16` (42_stack.md R150). -/
def incSP (s : State) : State := { s with sp := s.sp + 1 }

/-- `SP <- (SP - 1) mod 2^16` (42_stack.md R150). -/
def decSP (s : State) : State := { s with sp := s.sp - 1 }

/-- `BR <- (JSR_HIGH << 13) | (PC & 0x1FFF)` with a fresh draw of `JSR_HIGH` (44_control_transfer.md R198; assumption
log 11). -/
def returnWordToBR (s : State) : State :=
  { s with br := Config.jsrHigh s.draws ++ s.pc.setWidth 13, draws := s.draws + 1 }

/-- The memory and the run set up so that the next step fetches `w` (assumption log 5): `w` stands at `PC`, a
memory that does not reach there has its greatest length (20_memory.md R41), and the run is at the start
of a FETCH with no interruption asked for. -/
def placeWord (w : Word) (s : State) : State :=
  { s with
    mem         := s.mem.set s.pc.toNat w
    memLen      := if s.pc.toNat < s.memLen then s.memLen else 8192
    status      := .running
    f           := .fetch
    interruptIn := none }

end Sys2Proof.Machine
end

