-- ==== Sys2Proof/Machine/Operands.lean ====
section
/-! DEFINITION. The phases that fetch an instruction and form its operand: FETCH, INDEXED, INDIRECT
(40_instruction_cycle.md R104 to R107, R110). -/

namespace Sys2Proof.Machine

/-- The phase after FETCH, from bits 13 and 14 of `IR` (40_instruction_cycle.md R105). -/
def phaseAfterFetch (ir : Word) : Phase :=
  if (modeField ir).x then .indexed else if (modeField ir).n then .indirect else .execute

/-- The phase after INDEXED (40_instruction_cycle.md R106). -/
def phaseAfterIndexed (ir : Word) : Phase :=
  if (modeField ir).n then .indirect else .execute

/-- The address INDEXED forms, `((IR & 0x1FFF) + I) mod 2^16` (40_instruction_cycle.md R106). -/
def indexedAddr (ir : Word) (i : Field) : Addr := addrOfWord ir + addrOfField i

/-- The FETCH phase (40_instruction_cycle.md R104, R105). -/
def fetchPhase (s : State) : Out :=
  let s := { s with ar := s.pc }
  memRead s.ar s fun w =>
    .next (freeSc { s with
      br := w
      pc := s.pc + 1
      ir := w
      ar := addrOfWord w
      f  := phaseAfterFetch w })

/-- The INDEXED phase (40_instruction_cycle.md R106). -/
def indexedPhase (s : State) : Out :=
  .next (freeSc { s with ar := indexedAddr s.ir s.i, f := phaseAfterIndexed s.ir })

/-- The INDIRECT phase (40_instruction_cycle.md R107). -/
def indirectPhase (s : State) : Out :=
  memRead s.ar s fun w => .next (freeSc { s with br := w, ar := addrOfWord w, f := .execute })

end Sys2Proof.Machine
end

