-- ==== Sys2Proof/Machine/Arithmetic.lean ====
section
/-! DEFINITION. The EXECUTE phase of the arithmetic and logic instructions (43_arithmetic_logic.md). -/

namespace Sys2Proof.Machine

/-- `INA` (43_arithmetic_logic.md R162). -/
def execIna (s : State) : Out := endExecute (addToA 1 s)

/-- `INX` (43_arithmetic_logic.md R163). -/
def execInx (s : State) : Out := endExecute { s with x := s.x + 1 }

/-- `INI` (43_arithmetic_logic.md R164). -/
def execIni (s : State) : Out := endExecute { s with i := s.i + 1 }

/-- `DCA` (43_arithmetic_logic.md R165): the second operand is -1, `0xFFFFF`. -/
def execDca (s : State) : Out := endExecute (addToA 0xFFFFF s)

/-- `DCX` (43_arithmetic_logic.md R166). -/
def execDcx (s : State) : Out := endExecute { s with x := s.x - 1 }

/-- `DCI` (43_arithmetic_logic.md R167). -/
def execDci (s : State) : Out := endExecute { s with i := s.i - 1 }

/-- `ADA` (43_arithmetic_logic.md R169). -/
def execAda (s : State) : Out := loadBR s fun s => endExecute (addToA s.br s)

/-- How `SUB` complements `BR` (43_arithmetic_logic.md R170): two's complement under `literal`, one's under `ones`. -/
def subComplement (mode : SubMode) (w : Word) : Word :=
  match mode with
  | .literal => ~~~w + 1
  | .ones    => ~~~w

/-- `SUB` (43_arithmetic_logic.md R170): complement, increment of `A` that writes no flag, final addition. -/
def execSub (s : State) : Out :=
  loadBR s fun s =>
    let s := { s with br := subComplement s.cfg.subMode s.br }
    let s := { s with a := s.a + 1 }
    endExecute (addToA s.br s)

/-- `AND` (43_arithmetic_logic.md R171). -/
def execAnd (s : State) : Out := loadBR s fun s => endExecute { s with a := s.a &&& s.br }

/-- `ORA` (43_arithmetic_logic.md R172). -/
def execOra (s : State) : Out := loadBR s fun s => endExecute { s with a := s.a ||| s.br }

/-- `XOR` (43_arithmetic_logic.md R173). -/
def execXor (s : State) : Out := loadBR s fun s => endExecute { s with a := s.a ^^^ s.br }

/-- `CMA` (43_arithmetic_logic.md R174). -/
def execCma (s : State) : Out := endExecute { s with a := ~~~s.a }

end Sys2Proof.Machine
end

