-- ==== Sys2Proof/Machine/ControlTransfer.lean ====
section
/-! DEFINITION. The EXECUTE phase of the control transfer instructions (44_control_transfer.md). The jumps take their
target from `BR` (40_instruction_cycle.md R111); `JSR` takes it from the operand field (assumption log 16). -/

namespace Sys2Proof.Machine

/-- A jump taken when the condition holds; not taken it changes nothing (44_control_transfer.md R192). -/
def jumpIf (taken : Bool) (s : State) : Out := endExecute (if taken then jumpBR s else s)

/-- `JMP` (44_control_transfer.md R191). -/
def execJmp (s : State) : Out := endExecute (jumpBR s)

/-- `JPN` (44_control_transfer.md R193). -/
def execJpn (s : State) : Out := jumpIf s.flagS s

/-- `JAG` (44_control_transfer.md R194). -/
def execJag (s : State) : Out := jumpIf (!s.flagS && !s.flagZ) s

/-- `JPZ` (44_control_transfer.md R195). -/
def execJpz (s : State) : Out := jumpIf s.flagZ s

/-- `JPO` (44_control_transfer.md R196): a taken one clears `V`. -/
def execJpo (s : State) : Out :=
  endExecute (if s.flagV then jumpBR { s with flagV := false } else s)

/-- `JIG` (44_control_transfer.md R197): `(I & JIG_MASK) != 0 and I[12] = 0`. -/
def execJig (s : State) : Out :=
  jumpIf ((s.i &&& s.cfg.jigMask) != 0 && !s.i.msb) s

/-- `JSR` (44_control_transfer.md R198): the write goes to `Memory[SP]` and `AR` takes no part. -/
def execJsr (operand : Field) (s : State) : Out :=
  let s := returnWordToBR (incSP s)
  memWrite s.sp s.br s fun s => endExecute { s with pc := addrOfField operand }

/-- `RET` (44_control_transfer.md R202): `F` and `SC` zeroed, no flag-update step. -/
def execRet (s : State) : Out :=
  memRead s.sp s fun w => .next (decSP { s with pc := addrOfWord w, f := .fetch, sc := 0 })

/-- `HLT` (44_control_transfer.md R204): neither `F` nor the flags are updated; `SC` is unspecified. -/
def execHlt (s : State) : Out := .next (setStatus .halted (freeSc { s with flagH := true }))

end Sys2Proof.Machine
end

