-- ==== Sys2Proof/Machine/DataTransfer.lean ====
section
/-! DEFINITION. The EXECUTE phase of the data transfer instructions (41_data_transfer.md): NOP, loads, stores, immediates,
stack pointer transfers. Each runs with `AR`, `BR` and `IR` as the phases before left them (40_instruction_cycle.md
R110); an immediate's value is the operand field of `IR`, which the decoder gives as the operand (assumption log 16). -/

namespace Sys2Proof.Machine

/-- `NOP` (41_data_transfer.md R131). -/
def execNop (s : State) : Out := endExecute s

/-- `LDA` (41_data_transfer.md R132). -/
def execLda (s : State) : Out := loadBR s fun s => endExecute { s with a := s.br }

/-- `LDX` (41_data_transfer.md R133). -/
def execLdx (s : State) : Out := loadBR s fun s => endExecute { s with x := s.br }

/-- `LDI` (41_data_transfer.md R134). -/
def execLdi (s : State) : Out := loadBR s fun s => endExecute { s with i := low13 s.br }

/-- `STA` (41_data_transfer.md R135). -/
def execSta (s : State) : Out := storeBR { s with br := s.a }

/-- `STX` (41_data_transfer.md R136). -/
def execStx (s : State) : Out := storeBR { s with br := s.x }

/-- `STI` (41_data_transfer.md R137): bits 19 to 13 of the stored word are 0. -/
def execSti (s : State) : Out := storeBR { s with br := s.i.setWidth 20 }

/-- `ENA` (41_data_transfer.md R138). -/
def execEna (v : Field) (s : State) : Out := endExecute { s with a := sext20 v }

/-- `ENI` (41_data_transfer.md R139). -/
def execEni (v : Field) (s : State) : Out := endExecute { s with i := v }

/-- `LSP` (41_data_transfer.md R140). -/
def execLsp (s : State) : Out := loadBR s fun s => endExecute { s with sp := addrOfWord s.br }

/-- `SSP` (41_data_transfer.md R141): `BR` takes no part. -/
def execSsp (s : State) : Out :=
  memWrite s.ar ((s.sp.setWidth 13 : Field).setWidth 20) s endExecute

end Sys2Proof.Machine
end

