-- ==== Sys2Proof/Machine/InOut.lean ====
section
/-! DEFINITION. The EXECUTE phase of the input and output instructions (46_io.md). -/

namespace Sys2Proof.Machine

/-- `INP` (46_io.md R221): it takes the next value of the host's `INPUT`, reduced to 20 bits; with none to take the
core is in `WaitingInput`, inside this EXECUTE phase (assumption log 10). -/
def execInp (s : State) : Out :=
  match s.input with
  | []        => .next (setStatus .waitingInput (freeSc s))
  | v :: rest => endExecute { s with status := .running, input := rest, a := BitVec.ofNat 20 v }

/-- `OUT` (46_io.md R222): the value joins the sequence the host receives, after the earlier ones (R223). -/
def execOut (s : State) : Out :=
  let s := { s with br := s.a }
  endExecute { s with output := s.output ++ [s.br] }

end Sys2Proof.Machine
end

