-- ==== Sys2Proof/Machine/Shift.lean ====
section
/-! DEFINITION. The EXECUTE phase of the shift instructions (45_shift.md): by one bit, a zero entering, the bit shifted
out lost (R210). -/

namespace Sys2Proof.Machine

/-- `SHAL` (45_shift.md R212). -/
def execShal (s : State) : Out := endExecute { s with a := s.a <<< 1 }

/-- `SHAR` (45_shift.md R213). -/
def execShar (s : State) : Out := endExecute { s with a := s.a >>> 1 }

/-- `SHXL` (45_shift.md R214). -/
def execShxl (s : State) : Out := endExecute { s with x := s.x <<< 1 }

/-- `SHXR` (45_shift.md R215). -/
def execShxr (s : State) : Out := endExecute { s with x := s.x >>> 1 }

/-- `A : X`, the 40-bit pair with `A` in its high half (45_shift.md R216). -/
def pairAX (s : State) : BitVec 40 := s.a ++ s.x

/-- The 40-bit value `t` split back into `A` and `X` (45_shift.md R216). -/
def splitAX (t : BitVec 40) (s : State) : State :=
  { s with a := t.extractLsb' 20 20, x := t.setWidth 20 }

/-- `SAXL` (45_shift.md R216). -/
def execSaxl (s : State) : Out := endExecute (splitAX (pairAX s <<< 1) s)

/-- `SAXR` (45_shift.md R217). -/
def execSaxr (s : State) : Out := endExecute (splitAX (pairAX s >>> 1) s)

end Sys2Proof.Machine
end

