-- ==== Sys2Proof/Machine/Stack.lean ====
section
/-! DEFINITION. The EXECUTE phase of the stack instructions (42_stack.md): PSH, POP. -/

namespace Sys2Proof.Machine

/-- `PSH` (42_stack.md R151): `SP`, `BR` and `AR` are written before the access and stay written if it fails. -/
def execPsh (s : State) : Out :=
  let s := incSP s
  let s := { s with br := s.a }
  storeBR { s with ar := s.sp }

/-- `POP` (42_stack.md R152). -/
def execPop (s : State) : Out :=
  loadBR { s with ar := s.sp } fun s => endExecute (decSP { s with a := s.br })

end Sys2Proof.Machine
end

