-- ==== Sys2Proof/Machine/Dispatch.lean ====
section
/-! DEFINITION. One arm per instruction: the EXECUTE phase of the mnemonic (40_instruction_cycle.md R108). The addressing
modifiers have had their effect in the phases before. -/

namespace Sys2Proof.Machine

def exec (i : Instr) (s : State) : Host.Outcome State Fault Refusal :=
  match i with
  | .nop _ _ => Sys2Proof.Machine.execNop s
  | .lda _ _ => Sys2Proof.Machine.execLda s
  | .ldx _ _ => Sys2Proof.Machine.execLdx s
  | .ldi _ _ => Sys2Proof.Machine.execLdi s
  | .sta _ _ => Sys2Proof.Machine.execSta s
  | .stx _ _ => Sys2Proof.Machine.execStx s
  | .sti _ _ => Sys2Proof.Machine.execSti s
  | .ena _ operand => Sys2Proof.Machine.execEna operand s
  | .psh _ _ => Sys2Proof.Machine.execPsh s
  | .pop _ _ => Sys2Proof.Machine.execPop s
  | .ina _ _ => Sys2Proof.Machine.execIna s
  | .inx _ _ => Sys2Proof.Machine.execInx s
  | .ini _ _ => Sys2Proof.Machine.execIni s
  | .dca _ _ => Sys2Proof.Machine.execDca s
  | .dcx _ _ => Sys2Proof.Machine.execDcx s
  | .dci _ _ => Sys2Proof.Machine.execDci s
  | .eni _ operand => Sys2Proof.Machine.execEni operand s
  | .lsp _ _ => Sys2Proof.Machine.execLsp s
  | .ada _ _ => Sys2Proof.Machine.execAda s
  | .sub _ _ => Sys2Proof.Machine.execSub s
  | .and _ _ => Sys2Proof.Machine.execAnd s
  | .ora _ _ => Sys2Proof.Machine.execOra s
  | .xor _ _ => Sys2Proof.Machine.execXor s
  | .cma _ _ => Sys2Proof.Machine.execCma s
  | .jmp _ _ => Sys2Proof.Machine.execJmp s
  | .jpn _ _ => Sys2Proof.Machine.execJpn s
  | .jag _ _ => Sys2Proof.Machine.execJag s
  | .jpz _ _ => Sys2Proof.Machine.execJpz s
  | .jpo _ _ => Sys2Proof.Machine.execJpo s
  | .jsr _ operand => Sys2Proof.Machine.execJsr operand s
  | .jig _ _ => Sys2Proof.Machine.execJig s
  | .shal _ _ => Sys2Proof.Machine.execShal s
  | .shar _ _ => Sys2Proof.Machine.execShar s
  | .shxl _ _ => Sys2Proof.Machine.execShxl s
  | .shxr _ _ => Sys2Proof.Machine.execShxr s
  | .ssp _ _ => Sys2Proof.Machine.execSsp s
  | .saxl _ _ => Sys2Proof.Machine.execSaxl s
  | .saxr _ _ => Sys2Proof.Machine.execSaxr s
  | .inp _ _ => Sys2Proof.Machine.execInp s
  | .out _ _ => Sys2Proof.Machine.execOut s
  | .ret _ _ => Sys2Proof.Machine.execRet s
  | .hlt _ _ => Sys2Proof.Machine.execHlt s

end Sys2Proof.Machine
end

