-- ==== Sys2Proof/Machine/Cycle.lean ====
section
/-! DEFINITION. The instruction cycle: the EXECUTE phase, one iteration of the run loop (40_instruction_cycle.md R101), and
one instruction as the iterations that make it (R114). -/

namespace Sys2Proof.Machine

/-- The EXECUTE phase (40_instruction_cycle.md R108): the instruction in `IR`, `InvalidOpcode`, or the refusal of a
reserved sub-code (30_encoding.md R66). -/
def executePhase (s : State) : Out :=
  match decode s.cfg s.ir with
  | .ok i                  => exec i s
  | .invalidOpcode op      => raise (.invalidOpcode op) s
  | .reservedSubcode g sub => .refused (.reservedSubcode g sub)

/-- The phase `F` selects (40_instruction_cycle.md R101 step 2). -/
def phase (s : State) : Out :=
  match s.f with
  | .fetch    => fetchPhase s
  | .indexed  => indexedPhase s
  | .indirect => indirectPhase s
  | .execute  => executePhase s

/-- `CLOCK <- CLOCK + 1` (40_instruction_cycle.md R101 step 1). -/
def tick (s : State) : State := { s with clock := s.clock + 1 }

/-- One iteration of the run loop (40_instruction_cycle.md R101): the host's interruption is looked at first
(60_exceptions.md R243; assumption log 9), then `CLOCK`, then the phase. -/
def iterate (s : State) : Out :=
  match s.interruptIn with
  | some 0       => .next (setStatus .stopped s)
  | some (k + 1) => phase (tick { s with interruptIn := some k })
  | none         => phase (tick s)

/-- The run is inside an instruction: the loop iterates and its next phase is not a FETCH. -/
def State.midInstruction (s : State) : Bool := s.status == .running && s.f != .fetch

/-- At most `n` iterations, up to the end of the instruction or of the run. -/
def iterations (n : Nat) (s : State) : Out :=
  match n with
  | 0 => .next s
  | n + 1 =>
    match iterate s with
    | .next t    => if t.midInstruction then iterations n t else .next t
    | .fault r   => .fault r
    | .refused r => .refused r

/-- One instruction: two to four iterations from a FETCH (40_instruction_cycle.md R100, R114; assumption log 8). -/
def instruction (s : State) : Out := iterations 4 s

/-- A core that waits in `INP`: with no value from the host nothing changes (46_io.md R221), with one the EXECUTE phase
of the `INP` completes. -/
def resumeInput (s : State) : Out :=
  match s.input with
  | []     => .next s
  | _ :: _ => execInp s

/-- What the run status lets the core do next (10_state.md R30; 70_reset_and_hazards.md R264; assumption log 14). -/
def advance (s : State) : Out :=
  match s.status with
  | .running      => instruction s
  | .waitingInput => resumeInput s
  | .idle         => .fault .notStarted
  | .halted       => .fault .halted
  | .stopped      => .fault .stopped
  | .faulted e    => .fault (.runtimeError e)

end Sys2Proof.Machine
end

