-- ==== Sys2Proof/Machine/Step.lean ====
section
/-! DEFINITION. One step of the machine, and a state whose next step fetches a given word. -/

namespace Sys2Proof.Machine

/-- One step: one instruction, or the end of an input wait (40_instruction_cycle.md R102, R114). -/
def step (s : State) : Host.Outcome State Fault Refusal := Sys2Proof.Machine.advance s

/-- `s` with the instruction whose bits are `w` where the next step fetches (assumption log 5). -/
def State.withFetchWord (s : State) (_nbits w : Nat) : State :=
  Sys2Proof.Machine.placeWord (BitVec.ofNat 20 w) s

end Sys2Proof.Machine
end

