-- ==== Sys2Proof/Machine/MemoryImage.lean ====
section
/-! DEFINITION. The memory image text format (30_encoding.md R90): one line a cell, an address and a value in binary
digits, most significant first, a tab between them. -/

namespace Sys2Proof.Machine

/-- The `n` low binary digits of `v`, most significant first. -/
def binaryDigits (n v : Nat) : List Char :=
  match n with
  | 0 => []
  | n + 1 => (if v.testBit n then '1' else '0') :: binaryDigits n v

/-- A binary numeral read after the digits that gave `acc`; any other character is an error. -/
def readBinary (acc : Nat) (t : List Char) : Option Nat :=
  match t with
  | [] => some acc
  | c :: rest =>
    if c = '0' then readBinary (2 * acc) rest
    else if c = '1' then readBinary (2 * acc + 1) rest
    else none

/-- The text split at every `sep`. -/
def splitAtChar (sep : Char) (t : List Char) : List (List Char) :=
  match t with
  | [] => [[]]
  | c :: rest =>
    if c = sep then [] :: splitAtChar sep rest
    else
      match splitAtChar sep rest with
      | [] => [[c]]
      | p :: ps => (c :: p) :: ps

/-- An image with `w` at `k`: it grows to reach there, the gap zero (30_encoding.md R86, R90). -/
def imageWrite (image : List Word) (k : Nat) (w : Word) : List Word :=
  (image ++ List.replicate (k + 1 - image.length) 0).set k w

/-- The line of one cell, its line break included. -/
def imageLine (k : Nat) (w : Word) : List Char :=
  binaryDigits 13 k ++ '\t' :: binaryDigits 20 w.toNat ++ ['\n']

/-- The text of an image whose first word is at address `k`, one line a cell from there up (30_encoding.md R90). -/
def imageText (k : Nat) (image : List Word) : List Char :=
  match image with
  | [] => []
  | w :: rest => imageLine k w ++ imageText (k + 1) rest

/-- The cell a non-blank line holds: exactly two fields, each a numeral of at least one digit. A value of more than 20
bits is refused (assumption log 21). -/
def readImageLine (line : List Char) : Option (Nat × Word) :=
  match splitAtChar '\t' line with
  | [addr, value] =>
    if addr = [] ∨ value = [] then none
    else
      match readBinary 0 addr, readBinary 0 value with
      | some k, some v => if v < 2 ^ 20 then some (k, BitVec.ofNat 20 v) else none
      | _, _ => none
  | _ => none

/-- The image the lines give, the cells of each line written in turn; a blank line is skipped (30_encoding.md R90). That of
two lines with one address the later wins is the model's choice (assumption log 27). -/
def readImageLines (image : List Word) (lines : List (List Char)) : Option (List Word) :=
  match lines with
  | [] => some image
  | line :: rest =>
    if line.all (·.isWhitespace) then readImageLines image rest
    else
      match readImageLine line with
      | some (k, w) => readImageLines (imageWrite image k w) rest
      | none => none

/-- The image a text gives (30_encoding.md R90): its length is one more than the highest address in it. -/
def readImage (t : List Char) : Option (List Word) := readImageLines [] (splitAtChar '\n' t)

end Sys2Proof.Machine
end

