-- ==== Sys2Proof/Machine/Assembler.lean ====
section
/-! DEFINITION. The assembler's source language (30_encoding.md R80 to R89): lines, modifiers, numbers, label sums and the
pseudo-operations, as functions from source text to a memory image. How the original resolves labels in two passes
is out of scope (00_scope.md R4); here the addresses of the labels are computed first (assumption log 21). -/

namespace Sys2Proof.Machine

/-- Why a source text gives no image (30_encoding.md R73, R80, R82, R84, R85, R89). -/
inductive AsmError where
  | syntaxError
  | invalidArgument
  | missingOperand
  | unknownInstruction (name : List Char)
  | unknownLabel (name : List Char)
  | negativeLabelSum
  | noProgramOpen
  | nestedProgram
  | emptyProgramName
  | unclosedProgram
  deriving DecidableEq, Repr

/-- A source line that is not blank (30_encoding.md R80, R81): names upper-cased, modifiers taken off. -/
structure SourceLine where
  label    : Option (List Char)
  mnemonic : List Char
  mode     : Mode
  args     : List (List Char)
  deriving DecidableEq, Repr

/-- The text before a trailing `// comment` (30_encoding.md R80). -/
def stripComment (t : List Char) : List Char :=
  match t with
  | [] => []
  | '/' :: '/' :: _ => []
  | c :: rest => c :: stripComment rest

/-- The text without the white space around it. -/
def trimText (t : List Char) : List Char :=
  ((t.dropWhile (·.isWhitespace)).reverse.dropWhile (·.isWhitespace)).reverse

/-- Upper case: mnemonics and labels are case-insensitive (30_encoding.md R74, R80). -/
def upperText (t : List Char) : List Char := t.map Char.toUpper

/-- A character of an identifier: an ASCII letter or digit or an underscore. The spec does not list them, so this is the
model's choice (assumption log 23). -/
def isNameChar (c : Char) : Bool := c.isAlphanum || c == '_'

/-- An identifier: not empty, not starting with a digit (30_encoding.md R84; assumption log 23). -/
def isName (t : List Char) : Bool :=
  match t with
  | [] => false
  | c :: _ => !c.isDigit && t.all isNameChar

/-- An optional leading `LABEL:` and the text after it (30_encoding.md R80). -/
def splitLabel (t : List Char) : Option (List Char) × List Char :=
  match t.dropWhile isNameChar with
  | ':' :: rest =>
    if isName (t.takeWhile isNameChar) then (some (upperText (t.takeWhile isNameChar)), trimText rest)
    else (none, t)
  | _ => (none, t)

/-- The mnemonic without the suffix `,I`, and the indexed flag (30_encoding.md R81). -/
def splitIndexed (t : List Char) : List Char × Bool :=
  match t.reverse with
  | 'I' :: ',' :: rest => (rest.reverse, true)
  | _ => (t, false)

/-- The argument string without parentheses around it, and the indirect flag (30_encoding.md R81). -/
def splitIndirect (t : List Char) : List Char × Bool :=
  match t, t.reverse with
  | '(' :: inner, ')' :: _ => (trimText inner.dropLast, true)
  | _, _ => (t, false)

/-- The arguments of an argument string (30_encoding.md R82). -/
def splitArgs (t : List Char) : List (List Char) :=
  if t = [] then [] else (splitAtChar ',' t).map trimText

/-- One source line: none if it is blank (30_encoding.md R80, R81). That a line with a comment alone is blank, and that a
mnemonic has the form of an identifier, are the model's choices (assumption log 23), and so is that a lower-case `,i` is
the suffix too (assumption log 28). -/
def parseLine (t : List Char) : Except AsmError (Option SourceLine) :=
  let body := trimText (stripComment t)
  if body = [] then .ok none
  else
    let (label, rest) := splitLabel body
    let (mnemonic, x) := splitIndexed (upperText (rest.takeWhile fun c => !c.isWhitespace))
    let (args, n) := splitIndirect (trimText (rest.dropWhile fun c => !c.isWhitespace))
    if isName mnemonic then
      .ok (some { label := label, mnemonic := mnemonic, mode := ⟨n, x⟩, args := splitArgs args })
    else .error .syntaxError

/-- The value of a digit, if it is below the base. -/
def digitValue (base : Nat) (c : Char) : Option Nat :=
  let v :=
    if c.isDigit then c.toNat - '0'.toNat
    else if c.isAlpha then c.toUpper.toNat - 'A'.toNat + 10
    else base
  if v < base then some v else none

/-- A numeral read after the digits that gave `acc`. -/
def readDigits (base acc : Nat) (t : List Char) : Option Nat :=
  match t with
  | [] => some acc
  | c :: rest =>
    match digitValue base c with
    | some v => readDigits base (base * acc + v) rest
    | none => none

/-- A numeral of at least one digit. -/
def readNumeral (base : Nat) (t : List Char) : Option Int :=
  if t = [] then none else (readDigits base 0 t).map Int.ofNat

/-- A base-10 literal with an optional sign (30_encoding.md R82, R84). -/
def readDecimal (t : List Char) : Option Int :=
  match t with
  | '-' :: rest => (readNumeral 10 rest).map fun v => -v
  | '+' :: rest => readNumeral 10 rest
  | _ => readNumeral 10 t

/-- A number: base 16 after `$`, else base 10 with an optional sign (30_encoding.md R82). -/
def readNumber (t : List Char) : Option Int :=
  match t with
  | '$' :: rest => readNumeral 16 rest
  | _ => readDecimal t

/-- The addresses of labels. -/
abbrev Symbols := List (List Char × Nat)

/-- The value of one term of a label sum (30_encoding.md R84): a signed base-10 literal or a label. That a malformed term
that starts with no digit is a syntax error too is the model's choice (assumption log 29). -/
def termValue (syms : Symbols) (t : List Char) : Except AsmError Int :=
  match readDecimal t with
  | some v => .ok v
  | none =>
    if isName t then
      match syms.find? fun e => e.1 == upperText t with
      | some e => .ok e.2
      | none => .error (.unknownLabel (upperText t))
    else .error .syntaxError

/-- The sum of the terms of a label expression (30_encoding.md R84). -/
def sumTerms (syms : Symbols) (terms : List (List Char)) : Except AsmError Int :=
  match terms with
  | [] => .ok 0
  | t :: rest =>
    match termValue syms (trimText t), sumTerms syms rest with
    | .ok v, .ok w => .ok (v + w)
    | .error e, _ => .error e
    | _, .error e => .error e

/-- An argument that may start a label expression: not with a digit and not with `$` (30_encoding.md R84). -/
def startsLabelSum (t : List Char) : Bool :=
  match t with
  | [] => false
  | c :: _ => !c.isDigit && c != '$'

/-- The operand of an instruction (30_encoding.md R73, R82, R84): a number masked to 13 bits, or a label sum; a negative
sum has no meaning in the spec (R84). -/
def operandValue (syms : Symbols) (args : List (List Char)) : Except AsmError Field :=
  match args with
  | [] => .error .missingOperand
  | [t] =>
    match readNumber t with
    | some v => .ok (BitVec.ofInt 13 v)
    | none =>
      if startsLabelSum t then
        match sumTerms syms (splitAtChar '+' t) with
        | .ok v => if v < 0 then .error .negativeLabelSum else .ok (BitVec.ofInt 13 v)
        | .error e => .error e
      else .error .invalidArgument
  | _ :: _ :: _ => .error .invalidArgument

/-- The one non-negative number of `RES` and `ORG` (30_encoding.md R87, R88). -/
def countValue (args : List (List Char)) : Except AsmError Nat :=
  match args with
  | [t] =>
    match readNumber t with
    | some v => if v < 0 then .error .invalidArgument else .ok v.toNat
    | none => .error .invalidArgument
  | _ => .error .invalidArgument

/-- The mnemonic of this spelling (30_encoding.md R74). -/
def mnemonicOfName? (name : List Char) : Option Mnemonic :=
  Mnemonic.all.find? fun m => m.name.toList == name

/-- What the assembler holds between lines: the cursor, the image so far, and whether a program is open. -/
structure AsmState where
  cursor : Nat
  image  : List Word
  isOpen : Bool
  deriving DecidableEq, Repr

/-- A word written at the cursor, the cursor advanced by one (30_encoding.md R83, R86). -/
def AsmState.emit (st : AsmState) (w : Word) : AsmState :=
  { st with image := imageWrite st.image st.cursor w, cursor := st.cursor + 1 }

/-- `CON`: each value masked to 20 bits at the cursor (30_encoding.md R86); a value is a number (assumption log 21). -/
def emitConstants (args : List (List Char)) (st : AsmState) : Except AsmError AsmState :=
  match args with
  | [] => .ok st
  | t :: rest =>
    match readNumber t with
    | some v => emitConstants rest (st.emit (BitVec.ofInt 20 v))
    | none => .error .invalidArgument

/-- `RES n`: the cursor advanced by `n`, the image grown to cover the span (30_encoding.md R87). That an empty span behind
the end of the image grows it up to the cursor is the model's choice (assumption log 26). -/
def AsmState.reserve (st : AsmState) (n : Nat) : AsmState :=
  { st with
    cursor := st.cursor + n
    image  := st.image ++ List.replicate (st.cursor + n - st.image.length) 0 }

/-- The operand of a machine instruction (30_encoding.md R73, R82). A mnemonic that takes none may stand without an
argument; an argument it is given must be a single well-formed one (R82), whose value is then not used (assumption
log 21). -/
def instrOperand (syms : Symbols) (m : Mnemonic) (args : List (List Char)) : Except AsmError Field :=
  if args = [] ∧ m.group.takesOperand = false then .ok 0 else operandValue syms args

/-- The word of a machine instruction (30_encoding.md R73, R83). -/
def assembleInstr (c : Config) (syms : Symbols) (m : Mnemonic) (line : SourceLine) : Except AsmError Word :=
  (instrOperand syms m line.args).map (encodeFields c m line.mode)

/-- One line inside an open program (30_encoding.md R83, R85 to R89). A pseudo-operation emits no word to OR the modifiers
into (R81), so it ignores them: the model's choice (assumption log 24). -/
def assembleOpenLine (c : Config) (syms : Symbols) (line : SourceLine) (st : AsmState) : Except AsmError AsmState :=
  if line.mnemonic = "END".toList then .ok { st with isOpen := false }
  else if line.mnemonic = "CON".toList then
    if line.args = [] then .error .invalidArgument else emitConstants line.args st
  else if line.mnemonic = "RES".toList then (countValue line.args).map st.reserve
  else if line.mnemonic = "ORG".toList then (countValue line.args).map fun a => { st with cursor := a }
  else if line.mnemonic = "ENT".toList ∨ line.mnemonic = "EXT".toList then .ok st
  else
    match mnemonicOfName? line.mnemonic with
    | some m => (assembleInstr c syms m line).map st.emit
    | none => .error (.unknownInstruction line.mnemonic)

/-- One line (30_encoding.md R85): `NAM` opens a program, has a name and does not nest; nothing else stands outside
a program. That a second program goes on at the cursor the first left is the model's choice (assumption log 25). -/
def assembleLine (c : Config) (syms : Symbols) (line : SourceLine) (st : AsmState) : Except AsmError AsmState :=
  if line.mnemonic = "NAM".toList then
    if st.isOpen then .error .nestedProgram
    else if line.args = [] then .error .emptyProgramName
    else .ok { st with isOpen := true }
  else if st.isOpen then assembleOpenLine c syms line st
  else .error .noProgramOpen

/-- The lines in turn; at the end of input no program may be open (30_encoding.md R85). -/
def assembleLines (c : Config) (syms : Symbols) (lines : List SourceLine) (st : AsmState) :
    Except AsmError (List Word) :=
  match lines with
  | [] => if st.isOpen then .error .unclosedProgram else .ok st.image
  | line :: rest =>
    match assembleLine c syms line st with
    | .ok t => assembleLines c syms rest t
    | .error e => .error e

/-- The cursor after a line (30_encoding.md R83, R85 to R89). -/
def cursorAfter (line : SourceLine) (cursor : Nat) : Nat :=
  if line.mnemonic = "CON".toList then cursor + line.args.length
  else if line.mnemonic = "RES".toList then
    match countValue line.args with
    | .ok n => cursor + n
    | .error _ => cursor
  else if line.mnemonic = "ORG".toList then
    match countValue line.args with
    | .ok a => a
    | .error _ => cursor
  else
    match mnemonicOfName? line.mnemonic with
    | some _ => cursor + 1
    | none => cursor

/-- A label's address: the cursor at the line that carries it (30_encoding.md R84). That all programs of a source share
their labels is the model's choice (assumption log 25). -/
def labelAddresses (lines : List SourceLine) (cursor : Nat) : Symbols :=
  match lines with
  | [] => []
  | line :: rest =>
    match line.label with
    | some name => (name, cursor) :: labelAddresses rest (cursorAfter line cursor)
    | none => labelAddresses rest (cursorAfter line cursor)

/-- The lines that are not blank. -/
def parseLines (lines : List (List Char)) : Except AsmError (List SourceLine) :=
  match lines with
  | [] => .ok []
  | t :: rest =>
    match parseLine t, parseLines rest with
    | .ok none, .ok ls => .ok ls
    | .ok (some l), .ok ls => .ok (l :: ls)
    | .error e, _ => .error e
    | _, .error e => .error e

/-- The image of a source text (30_encoding.md R80 to R89); the cursor starts at 0 (R83). -/
def assemble (c : Config) (text : List Char) : Except AsmError (List Word) :=
  match parseLines (splitAtChar '\n' text) with
  | .ok lines => assembleLines c (labelAddresses lines 0) lines ⟨0, [], false⟩
  | .error e => .error e

end Sys2Proof.Machine
end

