-- ==== Sys2Proof/Machine/Control.lean ====
section
/-! DEFINITION. The host control surface (60_exceptions.md R241): what each host call does to the core. -/

namespace Sys2Proof.Machine

/-- The calls of the engine control surface (60_exceptions.md R241). A value the host supplies may be wider than 20
bits (46_io.md R221). -/
inductive HostCall where
  | load (image : List Word)
  | start
  | requestInterruption
  | pause
  | resume
  | step
  | setInput (value : Nat)
  | setDelay (ms : Nat)
  deriving DecidableEq, Repr

/-- The state after the load of an image (60_exceptions.md R241, 70_reset_and_hazards.md R260 to R262): every register 0,
`Mem` and `MEMLEN` the image's. The parameters, the host's values to come and the counter of the draws are
kept, and the output sequence starts anew (assumption log 20). -/
def loadImage (image : List Word) (s : State) : State :=
  { State.reset with
    mem    := Memory.ofImage 0 image
    memLen := image.length
    cfg    := s.cfg
    input  := s.input
    draws  := s.draws }

/-- The run is under way: the loop iterates or waits inside an `INP`. -/
def State.underWay (s : State) : Bool := s.status == .running || s.status == .waitingInput

/-- What a host call does to the core (60_exceptions.md R241). `pause`, `resume`, `step` and `setDelay` change only when
things happen (R244), so here they change nothing (assumption log 17); the calls the spec gives no meaning in a
state are refused by name (assumption log 18). That `start` on a core that was constructed and never loaded is
accepted, with `MEMLEN` 0, is the model's choice (assumption log 22). -/
def hostCall (c : HostCall) (s : State) : Out :=
  match c with
  | .load image =>
    if s.underWay then .refused .loadWhileRunning
    else if image.length ≤ 8192 then .next (loadImage image s)
    else .refused .imageTooLong
  | .start =>
    if s.status = .idle then .next (setStatus .running s) else .refused .startWithoutLoad
  | .requestInterruption => .next { s with interruptIn := some 0 }
  | .setInput value =>
    if s.status = .waitingInput then execInp { s with input := value :: s.input }
    else .refused .inputNotRequested
  | .pause => .next s
  | .resume => .next s
  | .step => .next s
  | .setDelay _ => .next s

end Sys2Proof.Machine
end

