-- ==== Sys2Proof/Safety.lean ====
section
/-! DEFINITION. What claims call a good state: the invariants of the machine, and a run without a runtime error. -/

namespace Sys2Proof.Machine

/-- The memory is in canonical form, has at most 8192 words, and lists none that is not present (20_memory.md R41). -/
def State.memoryWf (s : State) : Bool :=
  s.mem.wf && s.mem.below s.memLen && decide (s.memLen ≤ 8192)

/-- `Z` and `S` describe `A` (40_instruction_cycle.md R113). -/
def State.flagsDescribeA (s : State) : Bool := s.flagZ == (s.a == 0) && s.flagS == s.a.msb

/-- `H` is set exactly when `HLT` ended the run (10_state.md R28, R30). -/
def State.haltAgrees (s : State) : Bool := s.flagH == decide (s.status = .halted)

/-- `PC` is at most one above the greatest 13-bit address (10_state.md R17). -/
def State.pcInReach (s : State) : Bool := decide (s.pc.toNat ≤ 8192)

/-- A running core is between instructions: the next phase is a FETCH; a waiting one is in EXECUTE (10_state.md R21,
R30; 40_instruction_cycle.md R109). -/
def State.phaseAgrees (s : State) : Bool :=
  (s.status != .running || s.f == .fetch) && (s.status != .waitingInput || s.f == .execute)

/-- The run was not ended by a runtime error. -/
def State.noError (s : State) : Bool :=
  match s.status with
  | .idle | .running | .waitingInput | .halted | .stopped => true
  | .faulted _ => false

/-- No runtime error in the next `n` steps. -/
def State.safeFor (n : Nat) (s : State) : Prop :=
  match n with
  | 0 => s.noError = true
  | n + 1 => s.noError = true ∧ ∀ t, step s = .next t → t.safeFor n

end Sys2Proof.Machine
end

