-- ==== Sys2Proof/Certificates/Slice0/Obligations.lean ====
section
/-! DEFINITION. The statements for the provers. The first part names what they share, in the spec's own terms and without
the model's operations. -/

namespace Sys2Proof.Claims

open Sys2Proof.Machine

/-- `s` after the end of EXECUTE: `F <- FETCH`, `SC <- 0`, `Z` and `S` from `A` (40_instruction_cycle.md R109, R112). -/
def ended (s : State) : State :=
  { s with f := .fetch, sc := 0, flagZ := decide (s.a.toNat = 0), flagS := s.a.getLsbD 19 }

/-- The outcome is the next state `s`, `SC` apart, which is unspecified (10_state.md R22), as is the counter of the draws. -/
def answersUpToSc (o : Out) (s : State) : Prop := ∃ k d, o = .next { s with sc := k, draws := d }

/-- The outcome is `s` with the runtime error raised: status `Faulted(e)`, nothing else written (60_exceptions.md R231). -/
def raises (o : Out) (e : RuntimeError) (s : State) : Prop := answersUpToSc o { s with status := .faulted e }

/-- The outcome is the next state `s` with the word `w` stored at `k`: every other address reads as in `s`. -/
def storedAt (o : Out) (k : Nat) (w : Word) (s : State) : Prop :=
  ∃ t, o = .next t ∧ t = { s with mem := t.mem } ∧ t.mem.get k = w ∧
    ∀ l, l ≠ k → t.mem.get l = s.mem.get l

/-- The word at `PC`. -/
def wordAtPc (s : State) : Word := s.mem.get s.pc.toNat

/-- The operand field of the word at `PC`, plus `I` if its bit 13 is set: where INDIRECT reads, and the effective address
without INDIRECT (40_instruction_cycle.md R110). -/
def operandAddr (s : State) : Nat :=
  (wordAtPc s).toNat % 8192 + if (wordAtPc s).getLsbD 13 then s.i.toNat else 0

/-- `BR` when EXECUTE begins (40_instruction_cycle.md R110). -/
def brAtExecute (s : State) : Word :=
  if (wordAtPc s).getLsbD 14 then s.mem.get (operandAddr s) else wordAtPc s

/-- `AR` when EXECUTE begins, the effective address (40_instruction_cycle.md R110). -/
def arAtExecute (s : State) : Addr :=
  BitVec.ofNat 16 (if (wordAtPc s).getLsbD 14 then (brAtExecute s).toNat % 8192 else operandAddr s)

/-- The number of phases of the instruction at `PC`: 2, plus 1 for INDEXED, plus 1 for INDIRECT (40_instruction_cycle.md
R114). -/
def phasesAtPc (s : State) : Nat :=
  2 + (if (wordAtPc s).getLsbD 13 then 1 else 0) + if (wordAtPc s).getLsbD 14 then 1 else 0

/-- The state when the EXECUTE phase of the instruction at `PC` begins (40_instruction_cycle.md R110, R114). -/
def atExecute (s : State) : State :=
  { s with
    pc := s.pc + 1, ir := wordAtPc s, br := brAtExecute s, ar := arAtExecute s
    f := .execute, clock := s.clock + phasesAtPc s }

/-- The run is at the start of a FETCH and the host asks for no interruption. -/
def atFetch (s : State) : Prop := s.status = .running ∧ s.f = .fetch ∧ s.interruptIn = none

/-- The instruction at `PC` reaches its EXECUTE phase: its word, and its pointer if it has one, are in memory. -/
def reachesExecute (s : State) : Prop :=
  atFetch s ∧ s.pc.toNat < s.memLen ∧ ((wordAtPc s).getLsbD 14 = true → operandAddr s < s.memLen)

/-- `PC` of a state that takes the jump through `BR` if `taken` (44_control_transfer.md R191 to R197). -/
def pcAfterJump (taken : Prop) [Decidable taken] (s : State) : Addr :=
  if taken then BitVec.ofNat 16 (s.br.toNat % 8192) else s.pc

/-- The outcome with `SC` set to 0 in its next state. -/
def withoutSc (o : Out) : Out :=
  match o with
  | .next t => .next { t with sc := 0 }
  | .fault r => .fault r
  | .refused r => .refused r

/-- The instruction in the `IR` of `t` has one of these mnemonics. -/
def executed (t : State) (ms : List Mnemonic) : Prop :=
  ∃ i, decode t.cfg t.ir = .ok i ∧ i.mnemonic ∈ ms

end Sys2Proof.Claims

open Sys2Proof Sys2Proof.Machine Sys2Proof.Claims

/-! ## Encoding -/

/-- 30_encoding.md section 6 (R74, which the spec marks as derived): encoding then decoding returns the mnemonic, `n`, `x`
and the operand, for every allowed `OPC` and `SUBCODE`. -/
def Obligations.DecodeOfEncodeIsTheInstruction : Prop :=
  ∀ (c : Config) (i : Instr), c.wf = true → i.wf = true → decode c (encode c i) = .ok i

/-- 30_encoding.md section 6 (R74, marked as derived): decoding then encoding returns the word only if its ignored bits
were 0. -/
def Obligations.EncodeOfDecodeIsTheWordIffIgnoredBitsAreZero : Prop :=
  ∀ (c : Config) (w : Word) (i : Instr), decode c w = .ok i → (encode c i = w ↔ i.wf = true)

/-- 95_test_vectors.md part 2.1, under the spec's default numbers (decisions D1 and D2, assumption logs 1 and 2). -/
def Obligations.SpecWordsDecodeToTheirInstructions : Prop :=
  decode Config.std 0x08100 = .ok (.lda ⟨false, false⟩ 0x100) ∧
  decode Config.std 0x0E010 = .ok (.lda ⟨true, true⟩ 0x010) ∧
  decode Config.std 0x39FFF = .ok (.ena ⟨false, false⟩ 0x1FFF) ∧
  decode Config.std 0x40001 = .ok (.pop ⟨false, false⟩ 0) ∧
  decode Config.std 0x4FFF9 = .ok (.inx ⟨true, true⟩ 0x3FF) ∧
  decode Config.std 0x96014 = .ok (.jmp ⟨true, true⟩ 0x014) ∧
  decode Config.std 0xCFFFE = .ok (.shxl ⟨true, true⟩ 0x7FF) ∧
  decode Config.std 0xD8001 = .ok (.saxr ⟨false, false⟩ 0) ∧
  decode Config.std 0xE7FFF = .ok (.out ⟨true, true⟩ 0xFFF) ∧
  decode Config.std 0x48006 = .reservedSubcode .incDec 6 ∧
  decode Config.std 0xF8000 = .invalidOpcode 31

/-- 30_encoding.md section 2 (R63, whose numbers the spec marks as decided): an injective `OPC` leaves exactly one 5-bit value
unassigned. -/
def Obligations.ExactlyOneOpcodeIsUnassigned : Prop :=
  ∀ o : OpcodeMap, o.injective = true → ∃ op, (∀ g, o.get g ≠ op) ∧ ∀ op', (∀ g, o.get g ≠ op') → op' = op

/-- 30_encoding.md section 4 (R69: the opcode value `OPC` assigns to no group) and section 3 (R66, which the spec marks as
decided, D3: only the increment/decrement family has sub-codes that name no member): the decoder rejects exactly these. -/
def Obligations.DecoderRejectsExactlyTheWordsOfNoInstruction : Prop :=
  ∀ (c : Config) (w : Word),
    (∀ op : BitVec 5,
      decode c w = .invalidOpcode op ↔ op.toNat = w.toNat / 2 ^ 15 ∧ ∀ g, c.opc.get g ≠ op) ∧
    ∀ (g : Group) (sub : BitVec 3), c.wf = true →
      (decode c w = .reservedSubcode g sub ↔
        g = .incDec ∧ w.toNat / 2 ^ 15 = c.opc.incDec.toNat ∧ sub.toNat = w.toNat % 8 ∧
        sub ∉ [c.sub.ina, c.sub.inx, c.sub.ini, c.sub.dca, c.sub.dcx, c.sub.dci])

/-! ## The instruction cycle -/

/-- 40_instruction_cycle.md R104, R105: the FETCH phase, and the one that fails. -/
def Obligations.FetchReadsAtPcAndSelectsThePhase : Prop :=
  ∀ s : State, s.f = .fetch →
    (s.pc.toNat < s.memLen →
      answersUpToSc (phase s)
        { s with
          br := wordAtPc s, ir := wordAtPc s, pc := BitVec.ofNat 16 (s.pc.toNat + 1)
          ar := BitVec.ofNat 16 ((wordAtPc s).toNat % 8192)
          f := if (wordAtPc s).getLsbD 13 then .indexed
               else if (wordAtPc s).getLsbD 14 then .indirect else .execute }) ∧
    (s.memLen ≤ s.pc.toNat → raises (phase s) (.outOfBounds s.pc) { s with ar := s.pc })

/-- 40_instruction_cycle.md section 3 (R106; that the sum is not reduced and writes no flag are the spec's decisions D5 and
D8). -/
def Obligations.IndexedAddsTheIndexUnreduced : Prop :=
  ∀ s : State, s.f = .indexed →
    answersUpToSc (phase s)
      { s with
        ar := BitVec.ofNat 16 (s.ir.toNat % 8192 + s.i.toNat)
        f := if s.ir.getLsbD 14 then .indirect else .execute } ∧
    ∀ t, phase s = .next t → t.ar.toNat = s.ir.toNat % 8192 + s.i.toNat

/-- 40_instruction_cycle.md R107: the INDIRECT phase, and the one that fails. -/
def Obligations.IndirectFollowsOnePointer : Prop :=
  ∀ s : State, s.f = .indirect →
    (s.ar.toNat < s.memLen →
      answersUpToSc (phase s)
        { s with
          br := s.mem.get s.ar.toNat
          ar := BitVec.ofNat 16 ((s.mem.get s.ar.toNat).toNat % 8192)
          f := .execute }) ∧
    (s.memLen ≤ s.ar.toNat → raises (phase s) (.outOfBounds s.ar) s)

/-- 40_instruction_cycle.md section 1 (R101) and 60_exceptions.md section 4 (R243; that the check stands before the `CLOCK`
increment is the spec's decision D25; when the request is found is the model's `interruptIn`, assumption log 9). -/
def Obligations.IterationCountsClockUnlessInterrupted : Prop :=
  ∀ s : State,
    (s.interruptIn = some 0 → iterate s = .next { s with status := .stopped }) ∧
    (s.interruptIn = none → iterate s = phase { s with clock := s.clock + 1 }) ∧
    ∀ k, s.interruptIn = some (k + 1) →
      iterate s = phase { s with clock := s.clock + 1, interruptIn := some k }

/-- 40_instruction_cycle.md sections 6 and 8 (R110, R114, marked as derived): a step runs the instruction decoded from the
word at `PC`, in the state the phases before EXECUTE leave. -/
def Obligations.StepRunsTheDecodedInstruction : Prop :=
  ∀ (s : State) (i : Instr), reachesExecute s → decode s.cfg (wordAtPc s) = .ok i →
    ∃ k d, step s = exec i { atExecute s with sc := k, draws := d }

/-- 40_instruction_cycle.md R108 and 60_exceptions.md R234: an opcode of no group raises `InvalidOpcode` in EXECUTE, after
the addressing phases; a reserved sub-code is not one; under the default `OPC` (D1) the words are `0xF8000` up. -/
def Obligations.InvalidOpcodeIsRaisedAfterTheAddressingPhases : Prop :=
  (∀ (s : State) (op : BitVec 5), reachesExecute s → decode s.cfg (wordAtPc s) = .invalidOpcode op →
    raises (step s) (.invalidOpcode op) (atExecute s)) ∧
  (∀ w : Word, decode Config.std w = .invalidOpcode 31 ↔ 0xF8000 ≤ w.toNat) ∧
  ∀ (s : State) (g : Group) (sub : BitVec 3), reachesExecute s →
    decode s.cfg (wordAtPc s) = .reservedSubcode g sub → step s = .refused (.reservedSubcode g sub)

/-- 60_exceptions.md section 1 (R233, R235, which the spec marks as decided, D16): the runtime errors before EXECUTE and the
state each leaves. -/
def Obligations.FetchAndIndirectErrorsLeaveTheirState : Prop :=
  ∀ s : State, atFetch s →
    (s.memLen ≤ s.pc.toNat →
      raises (step s) (.outOfBounds s.pc) { s with ar := s.pc, clock := s.clock + 1 }) ∧
    (s.pc.toNat < s.memLen → (wordAtPc s).getLsbD 14 = true → s.memLen ≤ operandAddr s →
      raises (step s) (.outOfBounds (BitVec.ofNat 16 (operandAddr s)))
        { s with
          br := wordAtPc s, ir := wordAtPc s, pc := s.pc + 1, ar := BitVec.ofNat 16 (operandAddr s)
          f := .indirect, clock := s.clock + phasesAtPc s - 1 })

/-- 60_exceptions.md section 4 (R243, decision D25): a run stops between two phases of an instruction, `CLOCK` not counting the
phase that is not begun. -/
def Obligations.InterruptionStopsBetweenPhases : Prop :=
  ∀ s : State, s.status = .running → s.f = .fetch → s.pc.toNat < s.memLen → s.interruptIn = some 1 →
    answersUpToSc (step s)
      { s with
        br := wordAtPc s, ir := wordAtPc s, pc := s.pc + 1
        ar := BitVec.ofNat 16 ((wordAtPc s).toNat % 8192)
        f := if (wordAtPc s).getLsbD 13 then .indexed
             else if (wordAtPc s).getLsbD 14 then .indirect else .execute
        clock := s.clock + 1, interruptIn := some 0, status := .stopped }

/-- 70_reset_and_hazards.md section 4 (R280, marked as derived): an instruction costs 2 ticks, plus 1 if indexed, plus 1 if
indirect, whatever it is. -/
def Obligations.InstructionCostsItsPhasesInClockTicks : Prop :=
  ∀ s t : State, reachesExecute s → step s = .next t → t.clock = s.clock + phasesAtPc s

/-- 40_instruction_cycle.md section 6 (R111, marked as derived): an indexed jump without indirection ignores the index. -/
def Obligations.IndexedJumpWithoutIndirectionIgnoresTheIndex : Prop :=
  ∀ (s : State) (x : Bool) (a : Field), reachesExecute s → decode s.cfg (wordAtPc s) = .ok (.jmp ⟨false, x⟩ a) →
    ∃ t, step s = .next t ∧ t.pc.toNat = a.toNat ∧ t.i = s.i

/-! ## Data transfer and stack -/

/-- 41_data_transfer.md R131: no transfer; `F`, `SC`, `Z` and `S` as after every instruction. -/
def Obligations.NopOnlyEndsExecute : Prop :=
  ∀ (m : Mode) (g : BitVec 13) (s : State), exec (.nop m g) s = .next (ended s)

/-- 41_data_transfer.md R132, R133, R134, R140: the four loads, and their failing access. -/
def Obligations.LoadsMoveTheWordReadThroughBr : Prop :=
  ∀ (m : Mode) (a : Field) (s : State),
    (s.ar.toNat < s.memLen →
      exec (.lda m a) s =
        .next (ended { s with br := s.mem.get s.ar.toNat, a := s.mem.get s.ar.toNat }) ∧
      exec (.ldx m a) s =
        .next (ended { s with br := s.mem.get s.ar.toNat, x := s.mem.get s.ar.toNat }) ∧
      exec (.ldi m a) s =
        .next (ended { s with
          br := s.mem.get s.ar.toNat, i := BitVec.ofNat 13 ((s.mem.get s.ar.toNat).toNat % 8192) }) ∧
      exec (.lsp m a) s =
        .next (ended { s with
          br := s.mem.get s.ar.toNat, sp := BitVec.ofNat 16 ((s.mem.get s.ar.toNat).toNat % 8192) })) ∧
    (s.memLen ≤ s.ar.toNat →
      ∀ i ∈ [Instr.lda m a, .ldx m a, .ldi m a, .lsp m a], raises (exec i s) (.outOfBounds s.ar) s)

/-- 41_data_transfer.md R135, R136, R137: the stores through `BR`, and their failing access. Every other word reads as before;
the premise is the canonical form of memory, which every step keeps. -/
def Obligations.StoresWriteTheRegisterThroughBr : Prop :=
  ∀ (m : Mode) (a : Field) (s : State),
    (s.mem.wf = true → s.ar.toNat < s.memLen →
      storedAt (exec (.sta m a) s) s.ar.toNat s.a (ended { s with br := s.a }) ∧
      storedAt (exec (.stx m a) s) s.ar.toNat s.x (ended { s with br := s.x }) ∧
      storedAt (exec (.sti m a) s) s.ar.toNat (BitVec.ofNat 20 s.i.toNat)
        (ended { s with br := BitVec.ofNat 20 s.i.toNat })) ∧
    (s.memLen ≤ s.ar.toNat →
      raises (exec (.sta m a) s) (.outOfBounds s.ar) { s with br := s.a } ∧
      raises (exec (.stx m a) s) (.outOfBounds s.ar) { s with br := s.x } ∧
      raises (exec (.sti m a) s) (.outOfBounds s.ar) { s with br := BitVec.ofNat 20 s.i.toNat })

/-- 41_data_transfer.md R138, R139: `ENA` sign-extends, `ENI` does not, and the modifiers change neither. -/
def Obligations.ImmediatesAreEnteredWhateverTheModifiers : Prop :=
  ∀ (m : Mode) (v : Field) (s : State),
    exec (.ena m v) s =
      .next (ended { s with
        a := if v.getLsbD 12 then BitVec.ofNat 20 v.toNat ||| 0xFE000 else BitVec.ofNat 20 v.toNat }) ∧
    exec (.eni m v) s = .next (ended { s with i := v })

/-- 41_data_transfer.md section 'Stack pointer transfers' (R141; that `BR` is unchanged is the spec's decision D24). -/
def Obligations.SspStoresTheMaskedStackPointer : Prop :=
  ∀ (m : Mode) (a : Field) (s : State),
    (s.mem.wf = true → s.ar.toNat < s.memLen →
      storedAt (exec (.ssp m a) s) s.ar.toNat (BitVec.ofNat 20 (s.sp.toNat % 8192)) (ended s)) ∧
    (s.memLen ≤ s.ar.toNat → raises (exec (.ssp m a) s) (.outOfBounds s.ar) s)

/-- 42_stack.md R151: `PSH`, and the state its failing write leaves. -/
def Obligations.PshIncrementsThenWrites : Prop :=
  ∀ (m : Mode) (g : BitVec 12) (s : State) (p : Addr), p.toNat = (s.sp.toNat + 1) % 65536 →
    (s.mem.wf = true → p.toNat < s.memLen →
      storedAt (exec (.psh m g) s) p.toNat s.a (ended { s with sp := p, br := s.a, ar := p })) ∧
    (s.memLen ≤ p.toNat →
      raises (exec (.psh m g) s) (.outOfBounds p) { s with sp := p, br := s.a, ar := p })

/-- 42_stack.md R152: `POP`, and the state its failing read leaves. -/
def Obligations.PopReadsThenDecrements : Prop :=
  ∀ (m : Mode) (g : BitVec 12) (s : State),
    (s.sp.toNat < s.memLen →
      exec (.pop m g) s =
        .next (ended { s with
          ar := s.sp, br := s.mem.get s.sp.toNat, a := s.mem.get s.sp.toNat
          sp := BitVec.ofInt 16 (s.sp.toNat - 1) })) ∧
    (s.memLen ≤ s.sp.toNat → raises (exec (.pop m g) s) (.outOfBounds s.sp) { s with ar := s.sp })

/-- 42_stack.md R150 (marked as derived): a `POP` right after a `PSH` gives `A` and `SP` back. -/
def Obligations.PopAfterPshRestores : Prop :=
  ∀ (m m' : Mode) (g g' : BitVec 12) (s : State), s.mem.wf = true → (s.sp + 1).toNat < s.memLen →
    ∃ t u, exec (.psh m g) s = .next t ∧ exec (.pop m' g') t = .next u ∧ u.a = s.a ∧ u.sp = s.sp ∧
      ∀ l, l ≠ (s.sp + 1).toNat → u.mem.get l = s.mem.get l

/-! ## Arithmetic and logic -/

/-- 43_arithmetic_logic.md R162, R165. -/
def Obligations.InaAndDcaCountAndSetOverflow : Prop :=
  ∀ (m : Mode) (g : BitVec 10) (s : State),
    exec (.ina m g) s =
      .next (ended { s with a := BitVec.ofNat 20 (s.a.toNat + 1), flagV := s.a == 0x7FFFF }) ∧
    exec (.dca m g) s =
      .next (ended { s with
        a := BitVec.ofInt 20 (s.a.toNat - 1), flagV := s.a == 0x80000 })

/-- 43_arithmetic_logic.md R163, R164, R166, R167: `X` and `I` count in their width and write no `V`. -/
def Obligations.XAndICountWithoutOverflow : Prop :=
  ∀ (m : Mode) (g : BitVec 10) (s : State),
    exec (.inx m g) s = .next (ended { s with x := BitVec.ofNat 20 (s.x.toNat + 1) }) ∧
    exec (.dcx m g) s = .next (ended { s with x := BitVec.ofInt 20 (s.x.toNat - 1) }) ∧
    exec (.ini m g) s = .next (ended { s with i := BitVec.ofNat 13 (s.i.toNat + 1) }) ∧
    exec (.dci m g) s = .next (ended { s with i := BitVec.ofInt 13 (s.i.toNat - 1) })

/-- 43_arithmetic_logic.md R169: the sum modulo 2^20, `V` by the signs of the operands and of the result. -/
def Obligations.AdaAddsWithOverflow : Prop :=
  ∀ (m : Mode) (a : Field) (s : State) (w r : Word), w = s.mem.get s.ar.toNat →
    r.toNat = (s.a.toNat + w.toNat) % 2 ^ 20 →
    (s.ar.toNat < s.memLen →
      exec (.ada m a) s =
        .next (ended { s with
          br := w, a := r
          flagV := decide (s.a.getLsbD 19 = w.getLsbD 19 ∧ r.getLsbD 19 ≠ s.a.getLsbD 19) })) ∧
    (s.memLen ≤ s.ar.toNat → raises (exec (.ada m a) s) (.outOfBounds s.ar) s)

/-- 43_arithmetic_logic.md section 1 (R161, whose reading the spec marks as decided, D9): `ovf` of a sum is the overflow of
the two's-complement addition. -/
def Obligations.OverflowFlagIsSignedOverflow : Prop :=
  ∀ a b : Word, ovf a b (a + b) = true ↔ a.toInt + b.toInt < -2 ^ 19 ∨ 2 ^ 19 ≤ a.toInt + b.toInt

/-- 43_arithmetic_logic.md section 3 (R170, the spec's decision D10): `SUB` under both values of `SUB_MODE`. -/
def Obligations.SubFollowsItsMode : Prop :=
  ∀ (m : Mode) (a : Field) (s : State) (w b r : Word), w = s.mem.get s.ar.toNat →
    (b.toNat =
      match s.cfg.subMode with
      | .literal => (2 ^ 20 - w.toNat) % 2 ^ 20
      | .ones => 2 ^ 20 - 1 - w.toNat) →
    ((r.toNat : Int) =
      match s.cfg.subMode with
      | .literal => ((s.a.toNat : Int) - w.toNat + 1) % 2 ^ 20
      | .ones => ((s.a.toNat : Int) - w.toNat) % 2 ^ 20) →
    (s.ar.toNat < s.memLen →
      exec (.sub m a) s =
        .next (ended { s with
          br := b, a := r
          flagV := decide ((s.a + 1).getLsbD 19 = b.getLsbD 19 ∧ r.getLsbD 19 ≠ (s.a + 1).getLsbD 19) })) ∧
    (s.memLen ≤ s.ar.toNat → raises (exec (.sub m a) s) (.outOfBounds s.ar) s)

/-- 43_arithmetic_logic.md R171, R172, R173: bit by bit, `V` unchanged, and the failing access. -/
def Obligations.LogicCombinesBitByBit : Prop :=
  ∀ (m : Mode) (a : Field) (s : State) (w : Word), w = s.mem.get s.ar.toNat →
    (s.ar.toNat < s.memLen →
      (∃ r, exec (.and m a) s = .next (ended { s with br := w, a := r }) ∧
        ∀ k < 20, r.getLsbD k = (s.a.getLsbD k && w.getLsbD k)) ∧
      (∃ r, exec (.ora m a) s = .next (ended { s with br := w, a := r }) ∧
        ∀ k < 20, r.getLsbD k = (s.a.getLsbD k || w.getLsbD k)) ∧
      (∃ r, exec (.xor m a) s = .next (ended { s with br := w, a := r }) ∧
        ∀ k < 20, r.getLsbD k = (s.a.getLsbD k != w.getLsbD k))) ∧
    (s.memLen ≤ s.ar.toNat →
      ∀ i ∈ [Instr.and m a, .ora m a, .xor m a], raises (exec i s) (.outOfBounds s.ar) s)

/-- 43_arithmetic_logic.md R174. -/
def Obligations.CmaComplementsA : Prop :=
  ∀ (m : Mode) (g : BitVec 13) (s : State),
    exec (.cma m g) s = .next (ended { s with a := BitVec.ofNat 20 (0xFFFFF - s.a.toNat) })

/-! ## Control transfer -/

/-- 44_control_transfer.md R191. -/
def Obligations.JmpLoadsPcFromBr : Prop :=
  ∀ (m : Mode) (a : Field) (s : State),
    exec (.jmp m a) s = .next (ended { s with pc := BitVec.ofNat 16 (s.br.toNat % 8192) })

/-- 44_control_transfer.md section 'Conditional jumps' (R192 to R196; that the target is `BR & 0x1FFF` is the spec's
decision D12). -/
def Obligations.ConditionalJumpsReadTheStoredFlags : Prop :=
  ∀ (m : Mode) (a : Field) (s : State),
    exec (.jpn m a) s = .next (ended { s with pc := pcAfterJump (s.flagS = true) s }) ∧
    exec (.jag m a) s = .next (ended { s with pc := pcAfterJump (s.flagS = false ∧ s.flagZ = false) s }) ∧
    exec (.jpz m a) s = .next (ended { s with pc := pcAfterJump (s.flagZ = true) s }) ∧
    exec (.jpo m a) s = .next (ended { s with pc := pcAfterJump (s.flagV = true) s, flagV := false })

/-- 44_control_transfer.md section 'Conditional jumps' (R197, the spec's decisions D11 and D12): for every `JIG_MASK`; under the
mask `0x1FF8` the jump is taken exactly when `8 <= I <= 4095`, under `0x1FFF` exactly when `1 <= I <= 4095`. -/
def Obligations.JigTestsTheMaskedIndex : Prop :=
  ∀ (m : Mode) (a : Field) (s : State),
    exec (.jig m a) s =
      .next (ended { s with pc := pcAfterJump (s.i &&& s.cfg.jigMask ≠ 0 ∧ s.i.getLsbD 12 = false) s }) ∧
    (s.cfg.jigMask = 0x1FF8 →
      exec (.jig m a) s = .next (ended { s with pc := pcAfterJump (8 ≤ s.i.toNat ∧ s.i.toNat ≤ 4095) s })) ∧
    (s.cfg.jigMask = 0x1FFF →
      exec (.jig m a) s = .next (ended { s with pc := pcAfterJump (1 ≤ s.i.toNat ∧ s.i.toNat ≤ 4095) s }))

/-- 44_control_transfer.md section 'Subroutine call and return' (R198; the high bits of the stored word are the draw of
decision D13, `AR` is left alone by D24): whatever the draw, the stored word's low 13 bits are the return address. -/
def Obligations.JsrStoresTheReturnAddress : Prop :=
  ∀ (m : Mode) (a : Field) (s : State) (p : Addr), p.toNat = (s.sp.toNat + 1) % 65536 →
    (s.mem.wf = true → p.toNat < s.memLen →
      ∃ w d, w.toNat % 8192 = s.pc.toNat % 8192 ∧
        storedAt (exec (.jsr m a) s) p.toNat w
          (ended { s with sp := p, br := w, pc := BitVec.ofNat 16 a.toNat, draws := d })) ∧
    (s.memLen ≤ p.toNat →
      ∃ w, w.toNat % 8192 = s.pc.toNat % 8192 ∧
        raises (exec (.jsr m a) s) (.outOfBounds p) { s with sp := p, br := w })

/-- 44_control_transfer.md section 'Subroutine call and return' (R202; that `AR` and `BR` are unchanged is the spec's decision
D24): no flag-update step. -/
def Obligations.RetReturnsWithoutFlagUpdate : Prop :=
  ∀ (m : Mode) (g : BitVec 13) (s : State),
    (s.sp.toNat < s.memLen →
      exec (.ret m g) s =
        .next { s with
          pc := BitVec.ofNat 16 ((s.mem.get s.sp.toNat).toNat % 8192)
          sp := BitVec.ofInt 16 (s.sp.toNat - 1), f := .fetch, sc := 0 }) ∧
    (s.memLen ≤ s.sp.toNat → raises (exec (.ret m g) s) (.outOfBounds s.sp) s)

/-- 44_control_transfer.md R205 (marked as derived): the `RET` that pops what a `JSR` pushed goes on after the `JSR`,
whatever the draw of decision D13. -/
def Obligations.RetAfterJsrGoesOnAfterTheCall : Prop :=
  ∀ (m m' : Mode) (a : Field) (g : BitVec 13) (s : State), s.mem.wf = true → (s.sp + 1).toNat < s.memLen →
    ∃ t u, exec (.jsr m a) s = .next t ∧ t.pc.toNat = a.toNat ∧ exec (.ret m' g) t = .next u ∧
      u.pc.toNat = s.pc.toNat % 8192 ∧ u.sp = s.sp ∧ u.a = s.a

/-- 44_control_transfer.md section 'Halt' (R204; that neither `F` nor the flags are updated is the spec's decision D15). -/
def Obligations.HltSetsHAndEndsTheRun : Prop :=
  ∀ (m : Mode) (g : BitVec 13) (s : State),
    answersUpToSc (exec (.hlt m g) s) { s with flagH := true, status := .halted }

/-! ## Shifts, input and output -/

/-- 45_shift.md section 'Single shifts' (R212 to R215; that a zero enters and the bit shifted out is lost is the spec's
decision D14). -/
def Obligations.SingleShiftsAreLogicalByOneBit : Prop :=
  ∀ (m : Mode) (g : BitVec 11) (s : State),
    exec (.shal m g) s = .next (ended { s with a := BitVec.ofNat 20 (2 * s.a.toNat) }) ∧
    exec (.shar m g) s = .next (ended { s with a := BitVec.ofNat 20 (s.a.toNat / 2) }) ∧
    exec (.shxl m g) s = .next (ended { s with x := BitVec.ofNat 20 (2 * s.x.toNat) }) ∧
    exec (.shxr m g) s = .next (ended { s with x := BitVec.ofNat 20 (s.x.toNat / 2) })

/-- 45_shift.md section 'Combined shifts' (R216, R217; decision D14): the pair `A : X` as one 40-bit number. -/
def Obligations.CombinedShiftsShiftThePair : Prop :=
  ∀ (m : Mode) (g : BitVec 12) (s : State),
    (∃ a x : Word,
      a.toNat * 2 ^ 20 + x.toNat = 2 * (s.a.toNat * 2 ^ 20 + s.x.toNat) % 2 ^ 40 ∧
      exec (.saxl m g) s = .next (ended { s with a := a, x := x })) ∧
    (∃ a x : Word,
      a.toNat * 2 ^ 20 + x.toNat = (s.a.toNat * 2 ^ 20 + s.x.toNat) / 2 ∧
      exec (.saxr m g) s = .next (ended { s with a := a, x := x }))

/-- 46_io.md R221 (its mask and the untouched `BR` are the spec's decisions D19 and D24; the `INPUT` sequence is the model's
list `input`, assumption log 10): with a value supplied `INP` completes, with none the core waits. -/
def Obligations.InpTakesTheNextInputOrWaits : Prop :=
  ∀ (m : Mode) (g : BitVec 12) (s : State),
    (∀ v rest, s.input = v :: rest →
      exec (.inp m g) s =
        .next (ended { s with a := BitVec.ofNat 20 (v % 2 ^ 20), input := rest, status := .running })) ∧
    (s.input = [] → answersUpToSc (exec (.inp m g) s) { s with status := .waitingInput })

/-- 46_io.md R221 and 93_implementation_defined.md U17 (the reduction modulo 2^20 and the untouched `BR` are the spec's decisions
D19 and D24, the `INPUT` list is assumption log 10): a waiting core keeps its whole state until the host supplies a value,
and then the `INP` completes without a further `CLOCK` tick. -/
def Obligations.WaitingCoreKeepsItsStateUntilInput : Prop :=
  ∀ s : State, s.status = .waitingInput →
    (s.input = [] → step s = .next s) ∧
    (∀ v, s.input = [] →
      hostCall (.setInput v) s =
        .next (ended { s with a := BitVec.ofNat 20 (v % 2 ^ 20), status := .running }))

/-- 46_io.md R222. -/
def Obligations.OutAppendsAToTheOutput : Prop :=
  ∀ (m : Mode) (g : BitVec 12) (s : State),
    exec (.out m g) s = .next (ended { s with br := s.a, output := s.output ++ [s.a] })

/-! ## Reset, load and the end of a run -/

/-- 70_reset_and_hazards.md R261: every register and flag is 0 at reset, the first phase is a FETCH. -/
def Obligations.ResetLeavesEveryRegisterZero : Prop :=
  let s := State.reset
  s.a = 0 ∧ s.x = 0 ∧ s.br = 0 ∧ s.ir = 0 ∧ s.sp = 0 ∧ s.i = 0 ∧ s.pc = 0 ∧ s.ar = 0 ∧ s.f = .fetch ∧
    s.sc = 0 ∧ s.clock = 0 ∧ s.flagV = false ∧ s.flagZ = false ∧ s.flagS = false ∧ s.flagH = false

/-- 70_reset_and_hazards.md section 1 (R262) and 60_exceptions.md section 4 (R241): a load gives the core the image and resets
every register; that a running core is not loaded is the model's choice (assumption log 18). -/
def Obligations.LoadReplacesMemoryAndResets : Prop :=
  ∀ (image : List Word) (s : State), s.underWay = false → image.length ≤ 8192 →
    ∃ t, hostCall (.load image) s = .next t ∧ t.memLen = image.length ∧
      (∀ k w, image[k]? = some w → t.mem.get k = w) ∧
      t = { State.reset with
        mem := t.mem, memLen := t.memLen, cfg := s.cfg, input := s.input, draws := s.draws }

/-- 70_reset_and_hazards.md section 1 (R264, the spec's decision D27) and 10_state.md R30: a run that is not under way makes no
step; which outcome says so is the model's choice (assumption log 14). -/
def Obligations.EndedRunMakesNoStep : Prop :=
  ∀ s : State, s.underWay = false ↔ ∃ r, step s = .fault r

/-! ## Every step -/

/-- 20_memory.md sections 1 and 2 (R41, R44, the spec's decision D6; the canonical form is the model's, assumption log 6): every
step keeps memory canonical, inside `MEMLEN`, and `MEMLEN` within 8192. -/
def Obligations.StepKeepsMemoryWellFormed : Prop :=
  ∀ s t : State, s.memoryWf = true → step s = .next t → t.memoryWf = true

/-- The state after reset meets the invariants of Safety.lean that hold of it (its memory is the model's choice, assumption
log 5). -/
def Obligations.ResetMeetsTheInvariants : Prop :=
  State.reset.memoryWf = true ∧ State.reset.haltAgrees = true ∧ State.reset.pcInReach = true ∧
    State.reset.phaseAgrees = true ∧ State.reset.cfg.wf = true ∧ State.reset.noError = true

/-- 40_instruction_cycle.md R113 (marked as derived): once `Z` and `S` describe `A`, every step keeps it so. -/
def Obligations.StepKeepsFlagsDescribingA : Prop :=
  ∀ s t : State, s.flagsDescribeA = true → step s = .next t → t.flagsDescribeA = true

/-- 20_memory.md R44 and 10_state.md R32 (decision D6; that the parameters stand in State is the model's choice, assumption
log 4): no step changes `MEMLEN` or a parameter. -/
def Obligations.StepKeepsTheConfiguration : Prop :=
  ∀ s t : State, step s = .next t → t.cfg = s.cfg ∧ t.memLen = s.memLen

/-- 10_state.md section 6 (R28, decision D16): `H` is set by `HLT` and by nothing else, and set exactly when the status is
`Halted`. -/
def Obligations.OnlyHltSetsH : Prop :=
  ∀ s t : State, s.haltAgrees = true → step s = .next t →
    t.haltAgrees = true ∧ (t.flagH = true → executed t [.hlt])

/-- 10_state.md sections 2 and 6 (R13 to R16, R25): which instructions write `A`, `X`, `I`, `SP` and `V`. -/
def Obligations.RegistersAreWrittenOnlyByTheirInstructions : Prop :=
  ∀ s t : State, step s = .next t →
    (t.a ≠ s.a → executed t [.lda, .ena, .pop, .ina, .dca, .ada, .sub, .and, .ora, .xor, .cma, .shal, .shar,
      .saxl, .saxr, .inp] ∨ s.status = .waitingInput) ∧
    (t.x ≠ s.x → executed t [.ldx, .inx, .dcx, .shxl, .shxr, .saxl, .saxr]) ∧
    (t.i ≠ s.i → executed t [.ldi, .eni, .ini, .dci]) ∧
    (t.sp ≠ s.sp → executed t [.lsp, .psh, .jsr, .pop, .ret]) ∧
    (t.flagV ≠ s.flagV → executed t [.ada, .sub, .ina, .dca, .jpo])

/-- 20_memory.md R45: only the storing instructions change memory, and one step changes at most the word at the address the
instruction stores to: `AR`, which a step that begins at a FETCH sets to the effective address, or `SP + 1`. -/
def Obligations.OneStepChangesAtMostOneWord : Prop :=
  ∀ s t : State, step s = .next t →
    t.mem = s.mem ∨
      (executed t [.sta, .stx, .sti, .ssp] ∧ (s.f = .fetch → t.ar = arAtExecute s) ∧
        t.ar.toNat < s.memLen ∧ ∀ l, l ≠ t.ar.toNat → t.mem.get l = s.mem.get l) ∨
      (executed t [.psh, .jsr] ∧ t.sp = s.sp + 1 ∧ (s.sp + 1).toNat < s.memLen ∧
        ∀ l, l ≠ (s.sp + 1).toNat → t.mem.get l = s.mem.get l)

/-- 46_io.md R223 and R222: the output sequence only grows, by one word at an `OUT`. -/
def Obligations.OutputOnlyGrowsAtOut : Prop :=
  ∀ s t : State, step s = .next t →
    t.output = s.output ∨ (t.output = s.output ++ [t.a] ∧ executed t [.out])

/-- 10_state.md section 3 (R17, decision D5): `PC` never passes `0x2000`. -/
def Obligations.StepKeepsPcInReach : Prop :=
  ∀ s t : State, s.memoryWf = true → s.pcInReach = true → step s = .next t → t.pcInReach = true

/-- 40_instruction_cycle.md R109: a step ends between instructions, or in the EXECUTE phase of a waiting `INP`. -/
def Obligations.StepEndsBetweenInstructions : Prop :=
  ∀ s t : State, s.phaseAgrees = true → step s = .next t → t.phaseAgrees = true

/-- 10_state.md section 5 (R22): no rule reads `SC`. -/
def Obligations.ScIsReadByNothing : Prop :=
  ∀ (s : State) (k : BitVec 2), withoutSc (step { s with sc := k }) = withoutSc (step s)

/-- 10_state.md sections 4 (R18, R19, R20): every FETCH overwrites `AR`, `BR` and `IR`, so their values never carry from one
instruction to the next. -/
def Obligations.ArBrAndIrDoNotCarryOver : Prop :=
  ∀ (s : State) (ar : Addr) (br ir : Word), s.status = .running → s.f = .fetch → s.interruptIn ≠ some 0 →
    s.pc.toNat < s.memLen → step { s with ar := ar, br := br, ir := ir } = step s

/-! ## The image and the assembler -/

/-- 30_encoding.md section 9 (R90) and 95_test_vectors.md S2: reading the text of an image gives the image. -/
def Obligations.ImageTextReadsBackAsTheImage : Prop :=
  ∀ image : List Word, image.length ≤ 8192 → readImage (imageText 0 image) = some image

/-- 30_encoding.md R87: `RES n` advances the cursor by `n` without writing, growing memory to cover the span; that this
holds of an empty span behind the end of the image too is the model's choice (assumption log 26). -/
def Obligations.ReserveGrowsWithoutWriting : Prop :=
  ∀ (st : AsmState) (n : Nat),
    (st.reserve n).cursor = st.cursor + n ∧
    (st.reserve n).image.length = max st.image.length (st.cursor + n) ∧
    (∀ k, k < st.image.length → (st.reserve n).image[k]? = st.image[k]?) ∧
    ∀ k, st.image.length ≤ k → k < st.cursor + n → (st.reserve n).image[k]? = some 0

/-- 30_encoding.md R86: `CON` writes each value, masked to 20 bits, from the cursor on, advancing it per value; that each
value is a number and not a label is the model's choice (assumption log 21). -/
def Obligations.ConWritesItsValuesInTurn : Prop :=
  ∀ (args : List (List Char)) (st t : AsmState), emitConstants args st = .ok t →
    t.cursor = st.cursor + args.length ∧
    (∀ j arg, args[j]? = some arg →
      ∃ v, readNumber arg = some v ∧ t.image[st.cursor + j]? = some (BitVec.ofInt 20 v)) ∧
    ∀ k, k < st.image.length → (k < st.cursor ∨ st.cursor + args.length ≤ k) → t.image[k]? = st.image[k]?
end

