-- ==== Sys2Proof/Laws/Memory.lean ====
section
/-! SUPPORT. Memory: a read after a write, and that every operation keeps the canonical form. -/

namespace Sys2Proof.Machine

theorem Memory.get_of_all_above {m : Memory} {k : Nat} (h : ∀ c ∈ m, k < c.1) :
    Memory.get m k = Memory.unlisted := by
  induction m with
  | nil => rfl
  | cons c rest ih =>
    obtain ⟨j, w⟩ := c
    have hj : k < j := h (j, w) (by simp)
    simp only [Memory.get, if_neg (Nat.ne_of_gt hj)]
    exact ih fun c hc => h c (by simp [hc])

theorem Memory.wf_cons {j : Nat} {w : Word} {rest : Memory} :
    Memory.wf ((j, w) :: rest) = true ↔
      w ≠ Memory.unlisted ∧ (∀ c ∈ rest, j < c.1) ∧ Memory.wf rest = true := by
  simp [Memory.wf, and_assoc]

theorem Memory.get_set_same {m : Memory} (hm : m.wf = true) (k : Nat) (v : Word) :
    (m.set k v).get k = v := by
  induction m with
  | nil =>
    simp only [Memory.set]
    split
    · simp_all [Memory.get]
    · simp [Memory.get]
  | cons c rest ih =>
    obtain ⟨j, w⟩ := c
    obtain ⟨_, hall, hrest⟩ := Memory.wf_cons.mp hm
    have ih := ih hrest
    simp only [Memory.set]
    split
    · rename_i hlt
      split
      · rename_i hv
        rw [hv]
        refine Memory.get_of_all_above fun c hc => ?_
        rcases List.mem_cons.mp hc with rfl | hc
        · exact hlt
        · exact Nat.lt_trans hlt (hall c hc)
      · simp [Memory.get]
    · split
      · rename_i hk
        split
        · rename_i hv
          rw [hv, hk]
          exact Memory.get_of_all_above hall
        · simp [Memory.get]
      · rename_i hk
        simp only [Memory.get, if_neg (Ne.symm hk)]
        exact ih

theorem Memory.get_set_other {m : Memory} {k l : Nat} (h : l ≠ k) (v : Word) :
    (m.set k v).get l = m.get l := by
  induction m with
  | nil =>
    simp only [Memory.set]
    split
    · rfl
    · simp [Memory.get, Ne.symm h]
  | cons c rest ih =>
    obtain ⟨j, w⟩ := c
    simp only [Memory.set]
    split
    · split
      · rfl
      · simp [Memory.get, Ne.symm h]
    · split
      · rename_i hk
        split <;> simp [Memory.get, ← hk, Ne.symm h]
      · simp only [Memory.get, ih]

theorem Memory.mem_set {m : Memory} {k : Nat} {v : Word} {c : Nat × Word} (h : c ∈ m.set k v) :
    c.1 = k ∨ c ∈ m := by
  induction m with
  | nil =>
    simp only [Memory.set] at h
    split at h <;> simp_all
  | cons d rest ih =>
    obtain ⟨j, w⟩ := d
    simp only [Memory.set] at h
    split at h
    · split at h
      · exact .inr h
      · rcases List.mem_cons.mp h with rfl | h
        · exact .inl rfl
        · exact .inr h
    · split at h
      · split at h
        · exact .inr (List.mem_cons_of_mem _ h)
        · rcases List.mem_cons.mp h with rfl | h
          · exact .inl rfl
          · exact .inr (List.mem_cons_of_mem _ h)
      · rcases List.mem_cons.mp h with rfl | h
        · exact .inr (by simp)
        · rcases ih h with h | h
          · exact .inl h
          · exact .inr (List.mem_cons_of_mem _ h)

theorem Memory.wf_set {m : Memory} (hm : m.wf = true) (k : Nat) (v : Word) : (m.set k v).wf = true := by
  induction m with
  | nil =>
    simp only [Memory.set]
    split
    · rfl
    · rename_i h
      exact Memory.wf_cons.mpr ⟨h, by simp, rfl⟩
  | cons c rest ih =>
    obtain ⟨j, w⟩ := c
    obtain ⟨hw, hall, hrest⟩ := Memory.wf_cons.mp hm
    have ih := ih hrest
    simp only [Memory.set]
    split
    · rename_i hlt
      split
      · exact hm
      · rename_i hv
        refine Memory.wf_cons.mpr ⟨hv, fun c hc => ?_, hm⟩
        rcases List.mem_cons.mp hc with rfl | hc
        · exact hlt
        · exact Nat.lt_trans hlt (hall c hc)
    · rename_i hlt
      split
      · rename_i hk
        split
        · exact hrest
        · rename_i hv
          exact Memory.wf_cons.mpr ⟨hv, hk ▸ hall, hrest⟩
      · rename_i hk
        refine Memory.wf_cons.mpr ⟨hw, fun c hc => ?_, ih⟩
        rcases Memory.mem_set hc with hc | hc
        · omega
        · exact hall c hc

theorem Memory.below_iff {m : Memory} {n : Nat} : m.below n = true ↔ ∀ c ∈ m, c.1 < n := by
  simp [Memory.below]

theorem Memory.below_set {m : Memory} {n k : Nat} (hm : m.below n = true) (hk : k < n) (v : Word) :
    (m.set k v).below n = true := by
  rw [Memory.below_iff] at hm ⊢
  intro c hc
  rcases Memory.mem_set hc with h | h
  · exact h ▸ hk
  · exact hm c h

theorem Memory.mem_ofImage {image : List Word} {k : Nat} {c : Nat × Word}
    (h : c ∈ Memory.ofImage k image) : k ≤ c.1 ∧ c.1 < k + image.length := by
  induction image generalizing k with
  | nil => simp [Memory.ofImage] at h
  | cons w rest ih =>
    simp only [Memory.ofImage] at h
    split at h
    · have := ih h
      simp only [List.length_cons]
      omega
    · rcases List.mem_cons.mp h with rfl | h
      · simp
      · have := ih h
        simp only [List.length_cons]
        omega

theorem Memory.wf_ofImage (k : Nat) (image : List Word) : (Memory.ofImage k image).wf = true := by
  induction image generalizing k with
  | nil => rfl
  | cons w rest ih =>
    simp only [Memory.ofImage]
    split
    · exact ih _
    · rename_i h
      exact Memory.wf_cons.mpr ⟨h, fun c hc => (Memory.mem_ofImage hc).1, ih _⟩

theorem Memory.below_ofImage (image : List Word) :
    (Memory.ofImage 0 image).below image.length = true :=
  Memory.below_iff.mpr fun _ hc => by simpa using (Memory.mem_ofImage hc).2

theorem reset_memory_wf : State.reset.mem.wf = true := rfl

end Sys2Proof.Machine
end

