-- ==== Sys2Proof/Laws/State.lean ====
section
/-! SUPPORT. What each update of the state does to each field. -/

namespace Sys2Proof.Machine

@[simp] theorem freeSc_a (s : State) : (freeSc s).a = s.a := rfl
@[simp] theorem freeSc_x (s : State) : (freeSc s).x = s.x := rfl
@[simp] theorem freeSc_br (s : State) : (freeSc s).br = s.br := rfl
@[simp] theorem freeSc_ir (s : State) : (freeSc s).ir = s.ir := rfl
@[simp] theorem freeSc_sp (s : State) : (freeSc s).sp = s.sp := rfl
@[simp] theorem freeSc_i (s : State) : (freeSc s).i = s.i := rfl
@[simp] theorem freeSc_pc (s : State) : (freeSc s).pc = s.pc := rfl
@[simp] theorem freeSc_ar (s : State) : (freeSc s).ar = s.ar := rfl
@[simp] theorem freeSc_f (s : State) : (freeSc s).f = s.f := rfl
@[simp] theorem freeSc_sc (s : State) : (freeSc s).sc = Config.microStep s.draws := rfl
@[simp] theorem freeSc_clock (s : State) : (freeSc s).clock = s.clock := rfl
@[simp] theorem freeSc_flagV (s : State) : (freeSc s).flagV = s.flagV := rfl
@[simp] theorem freeSc_flagZ (s : State) : (freeSc s).flagZ = s.flagZ := rfl
@[simp] theorem freeSc_flagS (s : State) : (freeSc s).flagS = s.flagS := rfl
@[simp] theorem freeSc_flagH (s : State) : (freeSc s).flagH = s.flagH := rfl
@[simp] theorem freeSc_mem (s : State) : (freeSc s).mem = s.mem := rfl
@[simp] theorem freeSc_memLen (s : State) : (freeSc s).memLen = s.memLen := rfl
@[simp] theorem freeSc_status (s : State) : (freeSc s).status = s.status := rfl
@[simp] theorem freeSc_output (s : State) : (freeSc s).output = s.output := rfl
@[simp] theorem freeSc_cfg (s : State) : (freeSc s).cfg = s.cfg := rfl
@[simp] theorem freeSc_input (s : State) : (freeSc s).input = s.input := rfl
@[simp] theorem freeSc_interruptIn (s : State) : (freeSc s).interruptIn = s.interruptIn := rfl
@[simp] theorem freeSc_draws (s : State) : (freeSc s).draws = s.draws + 1 := rfl

@[simp] theorem flagUpdate_a (s : State) : (flagUpdate s).a = s.a := rfl
@[simp] theorem flagUpdate_x (s : State) : (flagUpdate s).x = s.x := rfl
@[simp] theorem flagUpdate_br (s : State) : (flagUpdate s).br = s.br := rfl
@[simp] theorem flagUpdate_ir (s : State) : (flagUpdate s).ir = s.ir := rfl
@[simp] theorem flagUpdate_sp (s : State) : (flagUpdate s).sp = s.sp := rfl
@[simp] theorem flagUpdate_i (s : State) : (flagUpdate s).i = s.i := rfl
@[simp] theorem flagUpdate_pc (s : State) : (flagUpdate s).pc = s.pc := rfl
@[simp] theorem flagUpdate_ar (s : State) : (flagUpdate s).ar = s.ar := rfl
@[simp] theorem flagUpdate_f (s : State) : (flagUpdate s).f = s.f := rfl
@[simp] theorem flagUpdate_sc (s : State) : (flagUpdate s).sc = 0 := rfl
@[simp] theorem flagUpdate_clock (s : State) : (flagUpdate s).clock = s.clock := rfl
@[simp] theorem flagUpdate_flagV (s : State) : (flagUpdate s).flagV = s.flagV := rfl
@[simp] theorem flagUpdate_flagZ (s : State) : (flagUpdate s).flagZ = (s.a == 0) := rfl
@[simp] theorem flagUpdate_flagS (s : State) : (flagUpdate s).flagS = s.a.msb := rfl
@[simp] theorem flagUpdate_flagH (s : State) : (flagUpdate s).flagH = s.flagH := rfl
@[simp] theorem flagUpdate_mem (s : State) : (flagUpdate s).mem = s.mem := rfl
@[simp] theorem flagUpdate_memLen (s : State) : (flagUpdate s).memLen = s.memLen := rfl
@[simp] theorem flagUpdate_status (s : State) : (flagUpdate s).status = s.status := rfl
@[simp] theorem flagUpdate_output (s : State) : (flagUpdate s).output = s.output := rfl
@[simp] theorem flagUpdate_cfg (s : State) : (flagUpdate s).cfg = s.cfg := rfl
@[simp] theorem flagUpdate_input (s : State) : (flagUpdate s).input = s.input := rfl
@[simp] theorem flagUpdate_interruptIn (s : State) : (flagUpdate s).interruptIn = s.interruptIn := rfl
@[simp] theorem flagUpdate_draws (s : State) : (flagUpdate s).draws = s.draws := rfl

@[simp] theorem addToA_a (b : Word) (s : State) : (addToA b s).a = s.a + b := rfl
@[simp] theorem addToA_x (b : Word) (s : State) : (addToA b s).x = s.x := rfl
@[simp] theorem addToA_br (b : Word) (s : State) : (addToA b s).br = s.br := rfl
@[simp] theorem addToA_ir (b : Word) (s : State) : (addToA b s).ir = s.ir := rfl
@[simp] theorem addToA_sp (b : Word) (s : State) : (addToA b s).sp = s.sp := rfl
@[simp] theorem addToA_i (b : Word) (s : State) : (addToA b s).i = s.i := rfl
@[simp] theorem addToA_pc (b : Word) (s : State) : (addToA b s).pc = s.pc := rfl
@[simp] theorem addToA_ar (b : Word) (s : State) : (addToA b s).ar = s.ar := rfl
@[simp] theorem addToA_f (b : Word) (s : State) : (addToA b s).f = s.f := rfl
@[simp] theorem addToA_sc (b : Word) (s : State) : (addToA b s).sc = s.sc := rfl
@[simp] theorem addToA_clock (b : Word) (s : State) : (addToA b s).clock = s.clock := rfl
@[simp] theorem addToA_flagV (b : Word) (s : State) : (addToA b s).flagV = ovf s.a b (s.a + b) := rfl
@[simp] theorem addToA_flagZ (b : Word) (s : State) : (addToA b s).flagZ = s.flagZ := rfl
@[simp] theorem addToA_flagS (b : Word) (s : State) : (addToA b s).flagS = s.flagS := rfl
@[simp] theorem addToA_flagH (b : Word) (s : State) : (addToA b s).flagH = s.flagH := rfl
@[simp] theorem addToA_mem (b : Word) (s : State) : (addToA b s).mem = s.mem := rfl
@[simp] theorem addToA_memLen (b : Word) (s : State) : (addToA b s).memLen = s.memLen := rfl
@[simp] theorem addToA_status (b : Word) (s : State) : (addToA b s).status = s.status := rfl
@[simp] theorem addToA_output (b : Word) (s : State) : (addToA b s).output = s.output := rfl
@[simp] theorem addToA_cfg (b : Word) (s : State) : (addToA b s).cfg = s.cfg := rfl
@[simp] theorem addToA_input (b : Word) (s : State) : (addToA b s).input = s.input := rfl
@[simp] theorem addToA_interruptIn (b : Word) (s : State) : (addToA b s).interruptIn = s.interruptIn := rfl
@[simp] theorem addToA_draws (b : Word) (s : State) : (addToA b s).draws = s.draws := rfl

@[simp] theorem jumpBR_a (s : State) : (jumpBR s).a = s.a := rfl
@[simp] theorem jumpBR_x (s : State) : (jumpBR s).x = s.x := rfl
@[simp] theorem jumpBR_br (s : State) : (jumpBR s).br = s.br := rfl
@[simp] theorem jumpBR_ir (s : State) : (jumpBR s).ir = s.ir := rfl
@[simp] theorem jumpBR_sp (s : State) : (jumpBR s).sp = s.sp := rfl
@[simp] theorem jumpBR_i (s : State) : (jumpBR s).i = s.i := rfl
@[simp] theorem jumpBR_pc (s : State) : (jumpBR s).pc = addrOfWord s.br := rfl
@[simp] theorem jumpBR_ar (s : State) : (jumpBR s).ar = s.ar := rfl
@[simp] theorem jumpBR_f (s : State) : (jumpBR s).f = s.f := rfl
@[simp] theorem jumpBR_sc (s : State) : (jumpBR s).sc = s.sc := rfl
@[simp] theorem jumpBR_clock (s : State) : (jumpBR s).clock = s.clock := rfl
@[simp] theorem jumpBR_flagV (s : State) : (jumpBR s).flagV = s.flagV := rfl
@[simp] theorem jumpBR_flagZ (s : State) : (jumpBR s).flagZ = s.flagZ := rfl
@[simp] theorem jumpBR_flagS (s : State) : (jumpBR s).flagS = s.flagS := rfl
@[simp] theorem jumpBR_flagH (s : State) : (jumpBR s).flagH = s.flagH := rfl
@[simp] theorem jumpBR_mem (s : State) : (jumpBR s).mem = s.mem := rfl
@[simp] theorem jumpBR_memLen (s : State) : (jumpBR s).memLen = s.memLen := rfl
@[simp] theorem jumpBR_status (s : State) : (jumpBR s).status = s.status := rfl
@[simp] theorem jumpBR_output (s : State) : (jumpBR s).output = s.output := rfl
@[simp] theorem jumpBR_cfg (s : State) : (jumpBR s).cfg = s.cfg := rfl
@[simp] theorem jumpBR_input (s : State) : (jumpBR s).input = s.input := rfl
@[simp] theorem jumpBR_interruptIn (s : State) : (jumpBR s).interruptIn = s.interruptIn := rfl
@[simp] theorem jumpBR_draws (s : State) : (jumpBR s).draws = s.draws := rfl

@[simp] theorem incSP_a (s : State) : (incSP s).a = s.a := rfl
@[simp] theorem incSP_x (s : State) : (incSP s).x = s.x := rfl
@[simp] theorem incSP_br (s : State) : (incSP s).br = s.br := rfl
@[simp] theorem incSP_ir (s : State) : (incSP s).ir = s.ir := rfl
@[simp] theorem incSP_sp (s : State) : (incSP s).sp = s.sp + 1 := rfl
@[simp] theorem incSP_i (s : State) : (incSP s).i = s.i := rfl
@[simp] theorem incSP_pc (s : State) : (incSP s).pc = s.pc := rfl
@[simp] theorem incSP_ar (s : State) : (incSP s).ar = s.ar := rfl
@[simp] theorem incSP_f (s : State) : (incSP s).f = s.f := rfl
@[simp] theorem incSP_sc (s : State) : (incSP s).sc = s.sc := rfl
@[simp] theorem incSP_clock (s : State) : (incSP s).clock = s.clock := rfl
@[simp] theorem incSP_flagV (s : State) : (incSP s).flagV = s.flagV := rfl
@[simp] theorem incSP_flagZ (s : State) : (incSP s).flagZ = s.flagZ := rfl
@[simp] theorem incSP_flagS (s : State) : (incSP s).flagS = s.flagS := rfl
@[simp] theorem incSP_flagH (s : State) : (incSP s).flagH = s.flagH := rfl
@[simp] theorem incSP_mem (s : State) : (incSP s).mem = s.mem := rfl
@[simp] theorem incSP_memLen (s : State) : (incSP s).memLen = s.memLen := rfl
@[simp] theorem incSP_status (s : State) : (incSP s).status = s.status := rfl
@[simp] theorem incSP_output (s : State) : (incSP s).output = s.output := rfl
@[simp] theorem incSP_cfg (s : State) : (incSP s).cfg = s.cfg := rfl
@[simp] theorem incSP_input (s : State) : (incSP s).input = s.input := rfl
@[simp] theorem incSP_interruptIn (s : State) : (incSP s).interruptIn = s.interruptIn := rfl
@[simp] theorem incSP_draws (s : State) : (incSP s).draws = s.draws := rfl

@[simp] theorem decSP_a (s : State) : (decSP s).a = s.a := rfl
@[simp] theorem decSP_x (s : State) : (decSP s).x = s.x := rfl
@[simp] theorem decSP_br (s : State) : (decSP s).br = s.br := rfl
@[simp] theorem decSP_ir (s : State) : (decSP s).ir = s.ir := rfl
@[simp] theorem decSP_sp (s : State) : (decSP s).sp = s.sp - 1 := rfl
@[simp] theorem decSP_i (s : State) : (decSP s).i = s.i := rfl
@[simp] theorem decSP_pc (s : State) : (decSP s).pc = s.pc := rfl
@[simp] theorem decSP_ar (s : State) : (decSP s).ar = s.ar := rfl
@[simp] theorem decSP_f (s : State) : (decSP s).f = s.f := rfl
@[simp] theorem decSP_sc (s : State) : (decSP s).sc = s.sc := rfl
@[simp] theorem decSP_clock (s : State) : (decSP s).clock = s.clock := rfl
@[simp] theorem decSP_flagV (s : State) : (decSP s).flagV = s.flagV := rfl
@[simp] theorem decSP_flagZ (s : State) : (decSP s).flagZ = s.flagZ := rfl
@[simp] theorem decSP_flagS (s : State) : (decSP s).flagS = s.flagS := rfl
@[simp] theorem decSP_flagH (s : State) : (decSP s).flagH = s.flagH := rfl
@[simp] theorem decSP_mem (s : State) : (decSP s).mem = s.mem := rfl
@[simp] theorem decSP_memLen (s : State) : (decSP s).memLen = s.memLen := rfl
@[simp] theorem decSP_status (s : State) : (decSP s).status = s.status := rfl
@[simp] theorem decSP_output (s : State) : (decSP s).output = s.output := rfl
@[simp] theorem decSP_cfg (s : State) : (decSP s).cfg = s.cfg := rfl
@[simp] theorem decSP_input (s : State) : (decSP s).input = s.input := rfl
@[simp] theorem decSP_interruptIn (s : State) : (decSP s).interruptIn = s.interruptIn := rfl
@[simp] theorem decSP_draws (s : State) : (decSP s).draws = s.draws := rfl

@[simp] theorem returnWordToBR_a (s : State) : (returnWordToBR s).a = s.a := rfl
@[simp] theorem returnWordToBR_x (s : State) : (returnWordToBR s).x = s.x := rfl
@[simp] theorem returnWordToBR_br (s : State) : (returnWordToBR s).br = Config.jsrHigh s.draws ++ s.pc.setWidth 13 := rfl
@[simp] theorem returnWordToBR_ir (s : State) : (returnWordToBR s).ir = s.ir := rfl
@[simp] theorem returnWordToBR_sp (s : State) : (returnWordToBR s).sp = s.sp := rfl
@[simp] theorem returnWordToBR_i (s : State) : (returnWordToBR s).i = s.i := rfl
@[simp] theorem returnWordToBR_pc (s : State) : (returnWordToBR s).pc = s.pc := rfl
@[simp] theorem returnWordToBR_ar (s : State) : (returnWordToBR s).ar = s.ar := rfl
@[simp] theorem returnWordToBR_f (s : State) : (returnWordToBR s).f = s.f := rfl
@[simp] theorem returnWordToBR_sc (s : State) : (returnWordToBR s).sc = s.sc := rfl
@[simp] theorem returnWordToBR_clock (s : State) : (returnWordToBR s).clock = s.clock := rfl
@[simp] theorem returnWordToBR_flagV (s : State) : (returnWordToBR s).flagV = s.flagV := rfl
@[simp] theorem returnWordToBR_flagZ (s : State) : (returnWordToBR s).flagZ = s.flagZ := rfl
@[simp] theorem returnWordToBR_flagS (s : State) : (returnWordToBR s).flagS = s.flagS := rfl
@[simp] theorem returnWordToBR_flagH (s : State) : (returnWordToBR s).flagH = s.flagH := rfl
@[simp] theorem returnWordToBR_mem (s : State) : (returnWordToBR s).mem = s.mem := rfl
@[simp] theorem returnWordToBR_memLen (s : State) : (returnWordToBR s).memLen = s.memLen := rfl
@[simp] theorem returnWordToBR_status (s : State) : (returnWordToBR s).status = s.status := rfl
@[simp] theorem returnWordToBR_output (s : State) : (returnWordToBR s).output = s.output := rfl
@[simp] theorem returnWordToBR_cfg (s : State) : (returnWordToBR s).cfg = s.cfg := rfl
@[simp] theorem returnWordToBR_input (s : State) : (returnWordToBR s).input = s.input := rfl
@[simp] theorem returnWordToBR_interruptIn (s : State) : (returnWordToBR s).interruptIn = s.interruptIn := rfl
@[simp] theorem returnWordToBR_draws (s : State) : (returnWordToBR s).draws = s.draws + 1 := rfl

@[simp] theorem splitAX_a (t : BitVec 40) (s : State) : (splitAX t s).a = t.extractLsb' 20 20 := rfl
@[simp] theorem splitAX_x (t : BitVec 40) (s : State) : (splitAX t s).x = t.setWidth 20 := rfl
@[simp] theorem splitAX_br (t : BitVec 40) (s : State) : (splitAX t s).br = s.br := rfl
@[simp] theorem splitAX_ir (t : BitVec 40) (s : State) : (splitAX t s).ir = s.ir := rfl
@[simp] theorem splitAX_sp (t : BitVec 40) (s : State) : (splitAX t s).sp = s.sp := rfl
@[simp] theorem splitAX_i (t : BitVec 40) (s : State) : (splitAX t s).i = s.i := rfl
@[simp] theorem splitAX_pc (t : BitVec 40) (s : State) : (splitAX t s).pc = s.pc := rfl
@[simp] theorem splitAX_ar (t : BitVec 40) (s : State) : (splitAX t s).ar = s.ar := rfl
@[simp] theorem splitAX_f (t : BitVec 40) (s : State) : (splitAX t s).f = s.f := rfl
@[simp] theorem splitAX_sc (t : BitVec 40) (s : State) : (splitAX t s).sc = s.sc := rfl
@[simp] theorem splitAX_clock (t : BitVec 40) (s : State) : (splitAX t s).clock = s.clock := rfl
@[simp] theorem splitAX_flagV (t : BitVec 40) (s : State) : (splitAX t s).flagV = s.flagV := rfl
@[simp] theorem splitAX_flagZ (t : BitVec 40) (s : State) : (splitAX t s).flagZ = s.flagZ := rfl
@[simp] theorem splitAX_flagS (t : BitVec 40) (s : State) : (splitAX t s).flagS = s.flagS := rfl
@[simp] theorem splitAX_flagH (t : BitVec 40) (s : State) : (splitAX t s).flagH = s.flagH := rfl
@[simp] theorem splitAX_mem (t : BitVec 40) (s : State) : (splitAX t s).mem = s.mem := rfl
@[simp] theorem splitAX_memLen (t : BitVec 40) (s : State) : (splitAX t s).memLen = s.memLen := rfl
@[simp] theorem splitAX_status (t : BitVec 40) (s : State) : (splitAX t s).status = s.status := rfl
@[simp] theorem splitAX_output (t : BitVec 40) (s : State) : (splitAX t s).output = s.output := rfl
@[simp] theorem splitAX_cfg (t : BitVec 40) (s : State) : (splitAX t s).cfg = s.cfg := rfl
@[simp] theorem splitAX_input (t : BitVec 40) (s : State) : (splitAX t s).input = s.input := rfl
@[simp] theorem splitAX_interruptIn (t : BitVec 40) (s : State) : (splitAX t s).interruptIn = s.interruptIn := rfl
@[simp] theorem splitAX_draws (t : BitVec 40) (s : State) : (splitAX t s).draws = s.draws := rfl

@[simp] theorem setStatus_a (st : Status) (s : State) : (setStatus st s).a = s.a := rfl
@[simp] theorem setStatus_x (st : Status) (s : State) : (setStatus st s).x = s.x := rfl
@[simp] theorem setStatus_br (st : Status) (s : State) : (setStatus st s).br = s.br := rfl
@[simp] theorem setStatus_ir (st : Status) (s : State) : (setStatus st s).ir = s.ir := rfl
@[simp] theorem setStatus_sp (st : Status) (s : State) : (setStatus st s).sp = s.sp := rfl
@[simp] theorem setStatus_i (st : Status) (s : State) : (setStatus st s).i = s.i := rfl
@[simp] theorem setStatus_pc (st : Status) (s : State) : (setStatus st s).pc = s.pc := rfl
@[simp] theorem setStatus_ar (st : Status) (s : State) : (setStatus st s).ar = s.ar := rfl
@[simp] theorem setStatus_f (st : Status) (s : State) : (setStatus st s).f = s.f := rfl
@[simp] theorem setStatus_sc (st : Status) (s : State) : (setStatus st s).sc = s.sc := rfl
@[simp] theorem setStatus_clock (st : Status) (s : State) : (setStatus st s).clock = s.clock := rfl
@[simp] theorem setStatus_flagV (st : Status) (s : State) : (setStatus st s).flagV = s.flagV := rfl
@[simp] theorem setStatus_flagZ (st : Status) (s : State) : (setStatus st s).flagZ = s.flagZ := rfl
@[simp] theorem setStatus_flagS (st : Status) (s : State) : (setStatus st s).flagS = s.flagS := rfl
@[simp] theorem setStatus_flagH (st : Status) (s : State) : (setStatus st s).flagH = s.flagH := rfl
@[simp] theorem setStatus_mem (st : Status) (s : State) : (setStatus st s).mem = s.mem := rfl
@[simp] theorem setStatus_memLen (st : Status) (s : State) : (setStatus st s).memLen = s.memLen := rfl
@[simp] theorem setStatus_status (st : Status) (s : State) : (setStatus st s).status = st := rfl
@[simp] theorem setStatus_output (st : Status) (s : State) : (setStatus st s).output = s.output := rfl
@[simp] theorem setStatus_cfg (st : Status) (s : State) : (setStatus st s).cfg = s.cfg := rfl
@[simp] theorem setStatus_input (st : Status) (s : State) : (setStatus st s).input = s.input := rfl
@[simp] theorem setStatus_interruptIn (st : Status) (s : State) : (setStatus st s).interruptIn = s.interruptIn := rfl
@[simp] theorem setStatus_draws (st : Status) (s : State) : (setStatus st s).draws = s.draws := rfl

@[simp] theorem tick_a (s : State) : (tick s).a = s.a := rfl
@[simp] theorem tick_x (s : State) : (tick s).x = s.x := rfl
@[simp] theorem tick_br (s : State) : (tick s).br = s.br := rfl
@[simp] theorem tick_ir (s : State) : (tick s).ir = s.ir := rfl
@[simp] theorem tick_sp (s : State) : (tick s).sp = s.sp := rfl
@[simp] theorem tick_i (s : State) : (tick s).i = s.i := rfl
@[simp] theorem tick_pc (s : State) : (tick s).pc = s.pc := rfl
@[simp] theorem tick_ar (s : State) : (tick s).ar = s.ar := rfl
@[simp] theorem tick_f (s : State) : (tick s).f = s.f := rfl
@[simp] theorem tick_sc (s : State) : (tick s).sc = s.sc := rfl
@[simp] theorem tick_clock (s : State) : (tick s).clock = s.clock + 1 := rfl
@[simp] theorem tick_flagV (s : State) : (tick s).flagV = s.flagV := rfl
@[simp] theorem tick_flagZ (s : State) : (tick s).flagZ = s.flagZ := rfl
@[simp] theorem tick_flagS (s : State) : (tick s).flagS = s.flagS := rfl
@[simp] theorem tick_flagH (s : State) : (tick s).flagH = s.flagH := rfl
@[simp] theorem tick_mem (s : State) : (tick s).mem = s.mem := rfl
@[simp] theorem tick_memLen (s : State) : (tick s).memLen = s.memLen := rfl
@[simp] theorem tick_status (s : State) : (tick s).status = s.status := rfl
@[simp] theorem tick_output (s : State) : (tick s).output = s.output := rfl
@[simp] theorem tick_cfg (s : State) : (tick s).cfg = s.cfg := rfl
@[simp] theorem tick_input (s : State) : (tick s).input = s.input := rfl
@[simp] theorem tick_interruptIn (s : State) : (tick s).interruptIn = s.interruptIn := rfl
@[simp] theorem tick_draws (s : State) : (tick s).draws = s.draws := rfl

end Sys2Proof.Machine
end

