-- ==== Sys2Proof/Laws/Ops.lean ====
section
/-! SUPPORT. Once for each shared operation, everything it can do. -/

namespace Sys2Proof.Machine

@[simp] theorem valid_iff {s : State} {addr : Addr} : s.valid addr = true ↔ addr.toNat < s.memLen := by
  simp [State.valid]

/-- `memRead` goes on with the word at a valid address, else raises `OutOfBounds`. -/
theorem memRead_valid {addr : Addr} {s : State} {k : Word → Out} (h : addr.toNat < s.memLen) :
    memRead addr s k = k (s.mem.get addr.toNat) := by
  simp [memRead, h]

theorem memRead_invalid {addr : Addr} {s : State} {k : Word → Out} (h : s.memLen ≤ addr.toNat) :
    memRead addr s k = raise (.outOfBounds addr) s := by
  simp [memRead, h]

theorem memRead_next {addr : Addr} {s t : State} {k : Word → Out} (h : memRead addr s k = .next t) :
    (addr.toNat < s.memLen ∧ k (s.mem.get addr.toNat) = .next t) ∨
      (s.memLen ≤ addr.toNat ∧ t = setStatus (.faulted (.outOfBounds addr)) (freeSc s)) := by
  rcases Nat.lt_or_ge addr.toNat s.memLen with hv | hv
  · exact .inl ⟨hv, by rwa [memRead_valid hv] at h⟩
  · rw [memRead_invalid hv] at h
    simp only [raise, Host.Outcome.next.injEq] at h
    exact .inr ⟨hv, h.symm⟩

/-- `memWrite` goes on with the word stored at a valid address, else raises `OutOfBounds`. -/
theorem memWrite_valid {addr : Addr} {v : Word} {s : State} {k : State → Out}
    (h : addr.toNat < s.memLen) :
    memWrite addr v s k = k { s with mem := s.mem.set addr.toNat v } := by
  simp [memWrite, h]

theorem memWrite_invalid {addr : Addr} {v : Word} {s : State} {k : State → Out}
    (h : s.memLen ≤ addr.toNat) : memWrite addr v s k = raise (.outOfBounds addr) s := by
  simp [memWrite, h]

theorem memWrite_next {addr : Addr} {v : Word} {s t : State} {k : State → Out}
    (h : memWrite addr v s k = .next t) :
    (addr.toNat < s.memLen ∧ k { s with mem := s.mem.set addr.toNat v } = .next t) ∨
      (s.memLen ≤ addr.toNat ∧ t = setStatus (.faulted (.outOfBounds addr)) (freeSc s)) := by
  rcases Nat.lt_or_ge addr.toNat s.memLen with hv | hv
  · exact .inl ⟨hv, by rwa [memWrite_valid hv] at h⟩
  · rw [memWrite_invalid hv] at h
    simp only [raise, Host.Outcome.next.injEq] at h
    exact .inr ⟨hv, h.symm⟩

theorem endExecute_next {s t : State} (h : endExecute s = .next t) :
    t = flagUpdate { s with f := .fetch } := by
  simpa [endExecute, eq_comm] using h

theorem raise_next {e : RuntimeError} {s t : State} (h : raise e s = .next t) :
    t = setStatus (.faulted e) (freeSc s) := by
  simpa [raise, eq_comm] using h

end Sys2Proof.Machine
end

