-- ==== Sys2Proof/Laws/Cycle.lean ====
section
/-! SUPPORT. Once for the instruction cycle, everything a phase, an iteration and a step can do. -/

namespace Sys2Proof.Machine

/-- A FETCH reads the word at `PC` or raises `OutOfBounds`. -/
theorem fetchPhase_next {s t : State} (h : fetchPhase s = .next t) :
    (s.pc.toNat < s.memLen ∧
      t = freeSc { s with
        br := s.mem.get s.pc.toNat
        pc := s.pc + 1
        ir := s.mem.get s.pc.toNat
        ar := addrOfWord (s.mem.get s.pc.toNat)
        f  := phaseAfterFetch (s.mem.get s.pc.toNat) }) ∨
    (s.memLen ≤ s.pc.toNat ∧
      t = setStatus (.faulted (.outOfBounds s.pc)) (freeSc { s with ar := s.pc })) := by
  unfold fetchPhase at h
  dsimp only at h
  rcases memRead_next h with ⟨hv, h⟩ | h
  · exact .inl ⟨hv, (Host.Outcome.next.inj h).symm⟩
  · exact .inr h

theorem indirectPhase_next {s t : State} (h : indirectPhase s = .next t) :
    (s.ar.toNat < s.memLen ∧
      t = freeSc { s with
        br := s.mem.get s.ar.toNat
        ar := addrOfWord (s.mem.get s.ar.toNat)
        f  := .execute }) ∨
    (s.memLen ≤ s.ar.toNat ∧ t = setStatus (.faulted (.outOfBounds s.ar)) (freeSc s)) := by
  rcases memRead_next h with ⟨hv, h⟩ | h
  · exact .inl ⟨hv, (Host.Outcome.next.inj h).symm⟩
  · exact .inr h

/-- An EXECUTE phase that goes on ran the instruction in `IR` or raised `InvalidOpcode`. -/
theorem executePhase_next {s t : State} (h : executePhase s = .next t) :
    (∃ i, decode s.cfg s.ir = .ok i ∧ exec i s = .next t) ∨
    (∃ op, decode s.cfg s.ir = .invalidOpcode op ∧
      t = setStatus (.faulted (.invalidOpcode op)) (freeSc s)) := by
  unfold executePhase at h
  split at h
  · exact .inl ⟨_, ‹_›, h⟩
  · exact .inr ⟨_, ‹_›, raise_next h⟩
  · cases h

/-- An iteration stops the run at the host's request, or counts `CLOCK` and performs the phase `F` selects. -/
theorem iterate_next {s t : State} (h : iterate s = .next t) :
    (s.interruptIn = some 0 ∧ t = setStatus .stopped s) ∨
    (∃ k, phase (tick { s with interruptIn := k }) = .next t) := by
  unfold iterate at h
  split at h
  · exact .inl ⟨‹_›, (Host.Outcome.next.inj h).symm⟩
  · exact .inr ⟨_, h⟩
  · rename_i hk
    exact .inr ⟨none, by rw [← hk]; exact h⟩

/-- What every iteration keeps, every run of iterations keeps. -/
theorem iterations_keep {P : State → Prop} (hP : ∀ s t, P s → iterate s = .next t → P t) :
    ∀ (n : Nat) (s t : State), P s → iterations n s = .next t → P t := by
  intro n
  induction n with
  | zero =>
    intro s t hs h
    exact Host.Outcome.next.inj h ▸ hs
  | succ n ih =>
    intro s t hs h
    simp only [iterations] at h
    split at h
    · rename_i u hu
      split at h
      · exact ih u t (hP s u hs hu) h
      · exact Host.Outcome.next.inj h ▸ hP s u hs hu
    · cases h
    · cases h

/-- A step that goes on is an instruction, or a core that waits for input or has just got it. -/
theorem step_next {s t : State} (h : step s = .next t) :
    (s.status = .running ∧ iterations 4 s = .next t) ∨
    (s.status = .waitingInput ∧ (t = s ∨ execInp s = .next t)) := by
  unfold step advance at h
  split at h
  · exact .inl ⟨‹_›, h⟩
  · refine .inr ⟨‹_›, ?_⟩
    unfold resumeInput at h
    split at h
    · exact .inl (Host.Outcome.next.inj h).symm
    · exact .inr h
  all_goals cases h

/-- What every iteration and every `INP` keep, every step keeps. -/
theorem step_keeps {P : State → Prop} (hI : ∀ s t, P s → iterate s = .next t → P t)
    (hInp : ∀ s t, P s → execInp s = .next t → P t) {s t : State} (hs : P s)
    (h : step s = .next t) : P t := by
  rcases step_next h with ⟨_, h⟩ | ⟨_, rfl | h⟩
  · exact iterations_keep hI 4 s t hs h
  · exact hs
  · exact hInp s t hs h

/-- What ticking, stopping, every phase before EXECUTE, taking a runtime error and every instruction keep, every step
keeps. -/
theorem step_keeps_of_phases {P : State → Prop}
    (hTick : ∀ s k, P s → P (tick { s with interruptIn := k }))
    (hStop : ∀ s, P s → P (setStatus .stopped s))
    (hFault : ∀ s e, P s → P (setStatus (.faulted e) (freeSc s)))
    (hFetch : ∀ s t, P s → fetchPhase s = .next t → P t)
    (hIndexed : ∀ s t, P s → indexedPhase s = .next t → P t)
    (hIndirect : ∀ s t, P s → indirectPhase s = .next t → P t)
    (hExec : ∀ i s t, P s → exec i s = .next t → P t)
    {s t : State} (hs : P s) (h : step s = .next t) : P t := by
  refine step_keeps (fun s t hs h => ?_) (fun s t hs h => hExec (.inp ⟨false, false⟩ 0) s t hs h) hs h
  rcases iterate_next h with ⟨_, rfl⟩ | ⟨k, h⟩
  · exact hStop s hs
  · have hs := hTick s k hs
    unfold phase at h
    split at h
    · exact hFetch _ t hs h
    · exact hIndexed _ t hs h
    · exact hIndirect _ t hs h
    · rcases executePhase_next h with ⟨i, _, h⟩ | ⟨op, _, rfl⟩
      · exact hExec i _ t hs h
      · exact hFault _ _ hs

end Sys2Proof.Machine
end

