-- ==== Sys2Proof/Laws/Decode.lean ====
section
/-! SUPPORT. The field of a family that one bit selects in: what its selecting bit and its ignored bits say of it. -/

namespace Sys2Proof.Laws

theorem extract_atBit (k : Fin 13) (sub : BitVec 1) : (atBit k sub).extractLsb' k.val 1 = sub := by
  revert k sub; decide

theorem withoutBit_atBit (k : Fin 13) (sub : BitVec 1) : withoutBit k (atBit k sub) = 0 := by
  revert k sub; decide

theorem toNat_atBit (k : Fin 13) (sub : BitVec 1) : (atBit k sub).toNat = sub.toNat * 2 ^ k.val := by
  revert k sub; decide

/-- A field is its selecting bit alone exactly when its ignored bits are 0 (30_encoding.md R67, R73). -/
theorem atBit_extract_iff (k : Fin 13) (f : Field) :
    atBit k (f.extractLsb' k.val 1) = f ↔ withoutBit k f = 0 := by
  have hf := f.isLt
  simp only [← BitVec.toNat_inj, toNat_atBit, withoutBit, BitVec.extractLsb'_toNat, BitVec.toNat_ofNat,
    Nat.shiftRight_eq_div_pow]
  fin_cases k <;> simp <;> omega

end Sys2Proof.Laws
end

