-- ==== Sys2Proof/Laws/PerInstr.lean ====
section
/-! SUPPORT. What the encoder writes in each field of the word, instruction by instruction (30_encoding.md R60, R73). -/

namespace Sys2Proof.Laws

theorem opcodeField_packWord (op : BitVec 5) (m : Mode) (v : Field) :
    opcodeField (packWord op m v) = op := by
  ext k hk
  simp only [opcodeField, packWord, BitVec.getElem_extractLsb', BitVec.getLsbD_append]
  simp [show ¬(15 + k < 13) by omega, show ¬(15 + k - 13 < 1) by omega,
    show ¬(15 + k - 13 - 1 < 1) by omega, show 15 + k - 13 - 1 - 1 = k by omega,
    BitVec.getLsbD_eq_getElem hk]

theorem low13_packWord (op : BitVec 5) (m : Mode) (v : Field) : low13 (packWord op m v) = v := by
  ext k hk
  simp only [low13, packWord, BitVec.getElem_setWidth, BitVec.getLsbD_append]
  simp [hk]

theorem modeField_packWord (op : BitVec 5) (m : Mode) (v : Field) : modeField (packWord op m v) = m := by
  obtain ⟨n, x⟩ := m
  simp only [modeField, packWord, BitVec.getLsbD_append]
  cases n <;> cases x <;> simp

/-- The fields of the word the encoder composes (30_encoding.md R60, R73). -/
def EncodedFields.Statement (i : Instr) : Prop :=
  ∀ c : Config,
    opcodeField (encode c i) = c.opc.get i.mnemonic.group ∧
    modeField (encode c i) = i.mode ∧
    low13 (encode c i) = if i.mnemonic.group.takesOperand then i.operand else i.mnemonic.subcode c.sub

theorem encode_fields (i : Instr) : EncodedFields.Statement i := fun _ =>
  ⟨opcodeField_packWord _ _ _, modeField_packWord _ _ _, low13_packWord _ _ _⟩

theorem EncodedFields.nop (m : Mode) (v : BitVec 13) : EncodedFields.Statement (.nop m v) := encode_fields _
theorem EncodedFields.lda (m : Mode) (v : Field) : EncodedFields.Statement (.lda m v) := encode_fields _
theorem EncodedFields.ldx (m : Mode) (v : Field) : EncodedFields.Statement (.ldx m v) := encode_fields _
theorem EncodedFields.ldi (m : Mode) (v : Field) : EncodedFields.Statement (.ldi m v) := encode_fields _
theorem EncodedFields.sta (m : Mode) (v : Field) : EncodedFields.Statement (.sta m v) := encode_fields _
theorem EncodedFields.stx (m : Mode) (v : Field) : EncodedFields.Statement (.stx m v) := encode_fields _
theorem EncodedFields.sti (m : Mode) (v : Field) : EncodedFields.Statement (.sti m v) := encode_fields _
theorem EncodedFields.ena (m : Mode) (v : Field) : EncodedFields.Statement (.ena m v) := encode_fields _
theorem EncodedFields.psh (m : Mode) (v : BitVec 12) : EncodedFields.Statement (.psh m v) := encode_fields _
theorem EncodedFields.pop (m : Mode) (v : BitVec 12) : EncodedFields.Statement (.pop m v) := encode_fields _
theorem EncodedFields.ina (m : Mode) (v : BitVec 10) : EncodedFields.Statement (.ina m v) := encode_fields _
theorem EncodedFields.inx (m : Mode) (v : BitVec 10) : EncodedFields.Statement (.inx m v) := encode_fields _
theorem EncodedFields.ini (m : Mode) (v : BitVec 10) : EncodedFields.Statement (.ini m v) := encode_fields _
theorem EncodedFields.dca (m : Mode) (v : BitVec 10) : EncodedFields.Statement (.dca m v) := encode_fields _
theorem EncodedFields.dcx (m : Mode) (v : BitVec 10) : EncodedFields.Statement (.dcx m v) := encode_fields _
theorem EncodedFields.dci (m : Mode) (v : BitVec 10) : EncodedFields.Statement (.dci m v) := encode_fields _
theorem EncodedFields.eni (m : Mode) (v : Field) : EncodedFields.Statement (.eni m v) := encode_fields _
theorem EncodedFields.lsp (m : Mode) (v : Field) : EncodedFields.Statement (.lsp m v) := encode_fields _
theorem EncodedFields.ada (m : Mode) (v : Field) : EncodedFields.Statement (.ada m v) := encode_fields _
theorem EncodedFields.sub (m : Mode) (v : Field) : EncodedFields.Statement (.sub m v) := encode_fields _
theorem EncodedFields.and (m : Mode) (v : Field) : EncodedFields.Statement (.and m v) := encode_fields _
theorem EncodedFields.ora (m : Mode) (v : Field) : EncodedFields.Statement (.ora m v) := encode_fields _
theorem EncodedFields.xor (m : Mode) (v : Field) : EncodedFields.Statement (.xor m v) := encode_fields _
theorem EncodedFields.cma (m : Mode) (v : BitVec 13) : EncodedFields.Statement (.cma m v) := encode_fields _
theorem EncodedFields.jmp (m : Mode) (v : Field) : EncodedFields.Statement (.jmp m v) := encode_fields _
theorem EncodedFields.jpn (m : Mode) (v : Field) : EncodedFields.Statement (.jpn m v) := encode_fields _
theorem EncodedFields.jag (m : Mode) (v : Field) : EncodedFields.Statement (.jag m v) := encode_fields _
theorem EncodedFields.jpz (m : Mode) (v : Field) : EncodedFields.Statement (.jpz m v) := encode_fields _
theorem EncodedFields.jpo (m : Mode) (v : Field) : EncodedFields.Statement (.jpo m v) := encode_fields _
theorem EncodedFields.jsr (m : Mode) (v : Field) : EncodedFields.Statement (.jsr m v) := encode_fields _
theorem EncodedFields.jig (m : Mode) (v : Field) : EncodedFields.Statement (.jig m v) := encode_fields _
theorem EncodedFields.shal (m : Mode) (v : BitVec 11) : EncodedFields.Statement (.shal m v) := encode_fields _
theorem EncodedFields.shar (m : Mode) (v : BitVec 11) : EncodedFields.Statement (.shar m v) := encode_fields _
theorem EncodedFields.shxl (m : Mode) (v : BitVec 11) : EncodedFields.Statement (.shxl m v) := encode_fields _
theorem EncodedFields.shxr (m : Mode) (v : BitVec 11) : EncodedFields.Statement (.shxr m v) := encode_fields _
theorem EncodedFields.ssp (m : Mode) (v : Field) : EncodedFields.Statement (.ssp m v) := encode_fields _
theorem EncodedFields.saxl (m : Mode) (v : BitVec 12) : EncodedFields.Statement (.saxl m v) := encode_fields _
theorem EncodedFields.saxr (m : Mode) (v : BitVec 12) : EncodedFields.Statement (.saxr m v) := encode_fields _
theorem EncodedFields.inp (m : Mode) (v : BitVec 12) : EncodedFields.Statement (.inp m v) := encode_fields _
theorem EncodedFields.out (m : Mode) (v : BitVec 12) : EncodedFields.Statement (.out m v) := encode_fields _
theorem EncodedFields.ret (m : Mode) (v : BitVec 13) : EncodedFields.Statement (.ret m v) := encode_fields _
theorem EncodedFields.hlt (m : Mode) (v : BitVec 13) : EncodedFields.Statement (.hlt m v) := encode_fields _

end Sys2Proof.Laws
end

