-- ==== Sys2Proof/Tests/Slice0.lean ====
section
/-! SUPPORT. The model's own tests: an ill-formed term for each check, the words of the spec's encoding tables, single steps of
the vectors of 95_test_vectors.md (each named by its id), and a witness for every statement that has hypotheses. -/

namespace Sys2Proof.Tests

open Sys2Proof.Machine Sys2Proof.Claims

/-! ## Well-formedness: each check refuses an ill-formed term -/

theorem test_default_parameters_are_wf : Config.std.wf = true := by decide

theorem test_two_groups_on_one_opcode_are_refused :
    Config.wf { Config.std with opc := { OpcodeMap.std with hlt := 0 } } = false := by decide

theorem test_two_stack_members_on_one_subcode_are_refused :
    Config.wf { Config.std with sub := { SubcodeMap.std with pop := 0 } } = false := by decide

theorem test_two_count_members_on_one_subcode_are_refused :
    Config.wf { Config.std with sub := { SubcodeMap.std with dci := 4 } } = false := by decide

theorem test_two_shift_members_on_one_subcode_are_refused :
    Config.wf { Config.std with sub := { SubcodeMap.std with shxr := 0 } } = false := by decide

theorem test_two_pair_shift_members_on_one_subcode_are_refused :
    Config.wf { Config.std with sub := { SubcodeMap.std with saxr := 0 } } = false := by decide

theorem test_two_io_members_on_one_subcode_are_refused :
    Config.wf { Config.std with sub := { SubcodeMap.std with out := 0 } } = false := by decide

/-- A set ignored bit, for each width of the ignored field (30_encoding.md R67). -/
theorem test_set_ignored_bits_are_refused :
    Instr.wf (.nop ⟨false, false⟩ 0x1000) = false ∧ Instr.wf (.cma ⟨false, false⟩ 1) = false ∧
    Instr.wf (.ret ⟨false, false⟩ 1) = false ∧ Instr.wf (.hlt ⟨false, false⟩ 1) = false ∧
    Instr.wf (.psh ⟨false, false⟩ 1) = false ∧ Instr.wf (.pop ⟨false, false⟩ 0x800) = false ∧
    Instr.wf (.inx ⟨true, true⟩ 0x3FF) = false ∧ Instr.wf (.shxl ⟨true, true⟩ 0x7FF) = false ∧
    Instr.wf (.saxr ⟨false, false⟩ 1) = false ∧ Instr.wf (.out ⟨true, true⟩ 0xFFF) = false := by decide

theorem test_modifiers_and_operands_are_wf :
    Instr.wf (.inx ⟨true, true⟩ 0) = true ∧ Instr.wf (.lda ⟨true, true⟩ 0x1FFF) = true := by decide

theorem test_memory_form_refuses_disorder_and_listed_zero :
    Memory.wf [(2, 1), (1, 1)] = false ∧ Memory.wf [(1, 1), (1, 2)] = false ∧ Memory.wf [(1, 0)] = false ∧
    Memory.wf [(1, 1), (2, 1)] = true := by decide

/-! ## Decoding: words written out from the spec's encoding (95_test_vectors.md part 2.1) -/

theorem test_decode_data_transfer :
    decodeTableWord 20 0b00000000000000000000 = some (.nop ⟨false, false⟩ 0) ∧
    decodeTableWord 20 0b00001000000100000000 = some (.lda ⟨false, false⟩ 0x100) ∧
    decodeTableWord 20 0b00010000000100000001 = some (.ldx ⟨false, false⟩ 0x101) ∧
    decodeTableWord 20 0b00011000000100000010 = some (.ldi ⟨false, false⟩ 0x102) ∧
    decodeTableWord 20 0b00100000001000000000 = some (.sta ⟨false, false⟩ 0x200) ∧
    decodeTableWord 20 0b00101000001000000001 = some (.stx ⟨false, false⟩ 0x201) ∧
    decodeTableWord 20 0b00110000001000000010 = some (.sti ⟨false, false⟩ 0x202) ∧
    decodeTableWord 20 0b00111001111111111111 = some (.ena ⟨false, false⟩ 0x1fff) ∧
    decodeTableWord 20 0b01010000000000000011 = some (.eni ⟨false, false⟩ 0x3) ∧
    decodeTableWord 20 0b01011000000011111111 = some (.lsp ⟨false, false⟩ 0xff) ∧
    decodeTableWord 20 0b11010000001000000011 = some (.ssp ⟨false, false⟩ 0x203) := by decide

theorem test_decode_stack :
    decodeTableWord 20 0b01000000000000000000 = some (.psh ⟨false, false⟩ 0) ∧
    decodeTableWord 20 0b01000000000000000001 = some (.pop ⟨false, false⟩ 0) := by decide

theorem test_decode_count :
    decodeTableWord 20 0b01001000000000000000 = some (.ina ⟨false, false⟩ 0) ∧
    decodeTableWord 20 0b01001000000000000001 = some (.inx ⟨false, false⟩ 0) ∧
    decodeTableWord 20 0b01001000000000000010 = some (.ini ⟨false, false⟩ 0) ∧
    decodeTableWord 20 0b01001000000000000011 = some (.dca ⟨false, false⟩ 0) ∧
    decodeTableWord 20 0b01001000000000000100 = some (.dcx ⟨false, false⟩ 0) ∧
    decodeTableWord 20 0b01001000000000000101 = some (.dci ⟨false, false⟩ 0) := by decide

theorem test_decode_arithmetic_logic :
    decodeTableWord 20 0b01100000000100000000 = some (.ada ⟨false, false⟩ 0x100) ∧
    decodeTableWord 20 0b01101000000100000000 = some (.sub ⟨false, false⟩ 0x100) ∧
    decodeTableWord 20 0b01110000000100000000 = some (.and ⟨false, false⟩ 0x100) ∧
    decodeTableWord 20 0b01111000000100000000 = some (.ora ⟨false, false⟩ 0x100) ∧
    decodeTableWord 20 0b10000000000100000000 = some (.xor ⟨false, false⟩ 0x100) ∧
    decodeTableWord 20 0b10001000000000000000 = some (.cma ⟨false, false⟩ 0) := by decide

theorem test_decode_control_transfer :
    decodeTableWord 20 0b10010000000000100000 = some (.jmp ⟨false, false⟩ 0x20) ∧
    decodeTableWord 20 0b10011000000000110000 = some (.jpn ⟨false, false⟩ 0x30) ∧
    decodeTableWord 20 0b10100000000000110000 = some (.jag ⟨false, false⟩ 0x30) ∧
    decodeTableWord 20 0b10101000000000110000 = some (.jpz ⟨false, false⟩ 0x30) ∧
    decodeTableWord 20 0b10110000000000110000 = some (.jpo ⟨false, false⟩ 0x30) ∧
    decodeTableWord 20 0b11000000000000110000 = some (.jig ⟨false, false⟩ 0x30) ∧
    decodeTableWord 20 0b10111000000010000000 = some (.jsr ⟨false, false⟩ 0x80) ∧
    decodeTableWord 20 0b11101000000000000000 = some (.ret ⟨false, false⟩ 0) ∧
    decodeTableWord 20 0b11110000000000000000 = some (.hlt ⟨false, false⟩ 0) := by decide

theorem test_decode_shift :
    decodeTableWord 20 0b11001000000000000000 = some (.shal ⟨false, false⟩ 0) ∧
    decodeTableWord 20 0b11001000000000000001 = some (.shar ⟨false, false⟩ 0) ∧
    decodeTableWord 20 0b11001000000000000010 = some (.shxl ⟨false, false⟩ 0) ∧
    decodeTableWord 20 0b11001000000000000011 = some (.shxr ⟨false, false⟩ 0) ∧
    decodeTableWord 20 0b11011000000000000000 = some (.saxl ⟨false, false⟩ 0) ∧
    decodeTableWord 20 0b11011000000000000001 = some (.saxr ⟨false, false⟩ 0) := by decide

theorem test_decode_io :
    decodeTableWord 20 0b11100000000000000000 = some (.inp ⟨false, false⟩ 0) ∧
    decodeTableWord 20 0b11100000000000000001 = some (.out ⟨false, false⟩ 0) := by decide

theorem test_decode_modifiers :
    decodeTableWord 20 0b00001010000000010000 = some (.lda ⟨false, true⟩ 0x10) ∧
    decodeTableWord 20 0b00001100000000010000 = some (.lda ⟨true, false⟩ 0x10) ∧
    decodeTableWord 20 0b00001110000000010000 = some (.lda ⟨true, true⟩ 0x10) ∧
    decodeTableWord 20 0b10010110000000010100 = some (.jmp ⟨true, true⟩ 0x14) ∧
    decodeTableWord 20 0b01001111111111111001 = some (.inx ⟨true, true⟩ 0x3FF) ∧
    decodeTableWord 20 0b11001111111111111110 = some (.shxl ⟨true, true⟩ 0x7FF) ∧
    decodeTableWord 20 0b11100111111111111111 = some (.out ⟨true, true⟩ 0xFFF) := by decide

/-- 00_scope.md R6 and 93_implementation_defined.md U2: the stack family's selecting bit is a parameter. -/
theorem test_decode_by_the_parameter_stack_bit :
    let c := { Config.std with sub := { SubcodeMap.std with stackBit := 12 } }
    decode c 0b01000001000000000000 = .ok (.pop ⟨false, false⟩ 0) ∧
    decode c 0b01000000000000000001 = .ok (.psh ⟨false, false⟩ 1) ∧
    encode c (.pop ⟨false, false⟩ 0) = 0b01000001000000000000 := by decide

/-- 30_encoding.md R66 and R69: no instruction has these words. -/
theorem test_decode_rejects :
    decodeTableWord 20 0x48006 = none ∧ decodeTableWord 20 0x48007 = none ∧ decodeTableWord 20 0xF8000 = none ∧
    decodeTableWord 20 0x100000 = none := by decide

/-- 30_encoding.md R74: the encoder writes the ignored bits 0. -/
theorem test_encode_clears_ignored_bits : encode Config.std (.inx ⟨true, true⟩ 0x3FF) = 0x4E001 := by decide

theorem test_encode_by_the_parameter_opc :
    encode { Config.std with opc := { OpcodeMap.std with nop := 1, lda := 0 } } (.lda ⟨false, false⟩ 0x100) = 0x00100 := by
  decide

/-! ## One step each: the vectors of 95_test_vectors.md part 2 -/

/-- The set-up of part 2: `MEMLEN = 0x20`, the reset state, running. -/
def small : State := { State.reset with memLen := 0x20, status := .running }

/-- What `f` reads of the state one step leads to. -/
def after {α : Type} (s : State) (f : State → α) : Option α :=
  match step s with
  | .next t => some (f t)
  | .fault _ => none
  | .refused _ => none

/-- A step that goes on. -/
def goesOn (s : State) : Bool := (after s fun _ => ()).isSome

/-- The memory of M1 to M4. -/
def pointers (w : Word) : Memory := [(0, w), (0x10, 0x12), (0x12, 0x14), (0x14, 0xAAAAA)]

/-- The memory of M5 to M8. -/
def targets (w : Word) : Memory := [(0, w), (0x10, 0xFE015), (0x12, 0x17)]

theorem test_M1_lda :
    after { small with i := 2, mem := pointers 0x08010 }
      (fun t => (t.a, t.br, t.ar, t.pc, t.clock, t.flagS)) =
    some (0x12, 0x12, 0x10, 1, 2, false) := by decide

theorem test_M2_lda :
    after { small with i := 2, mem := pointers 0x0A010 }
      (fun t => (t.a, t.br, t.ar, t.pc, t.clock, t.flagS)) =
    some (0x14, 0x14, 0x12, 1, 3, false) := by decide

theorem test_M3_lda :
    after { small with i := 2, mem := pointers 0x0C010 }
      (fun t => (t.a, t.br, t.ar, t.pc, t.clock, t.flagS)) =
    some (0x14, 0x14, 0x12, 1, 3, false) := by decide

theorem test_M4_lda :
    after { small with i := 2, mem := pointers 0x0E010 }
      (fun t => (t.a, t.br, t.ar, t.pc, t.clock, t.flagS)) =
    some (0xAAAAA, 0xAAAAA, 0x14, 1, 4, true) := by decide

theorem test_M6_jmp :
    after { small with i := 2, mem := targets 0x92010 }
      (fun t => (t.pc, t.ar, t.br, t.clock)) =
    some (0x10, 0x12, 0x92010, 3) := by decide

theorem test_M8_jmp :
    after { small with i := 2, mem := targets 0x96010 }
      (fun t => (t.pc, t.ar, t.br, t.clock)) =
    some (0x17, 0x17, 0x17, 4) := by decide

theorem test_M9_ena :
    after { small with i := 2, mem := [(0, 0x3E005), (7, 0x11)] }
      (fun t => (t.a, t.ar, t.br, t.pc, t.clock)) =
    some (5, 0x11, 0x11, 1, 4) := by decide

theorem test_M10_jsr :
    after { small with i := 2, sp := 0x18, mem := [(0, 0xBE010)] }
      (fun t => (t.pc, t.sp, t.ar, t.clock)) =
    some (0x10, 0x19, 0, 4) := by decide

theorem test_T1_nop :
    after { small with mem := [] }
      (fun t => (t.pc, t.clock, t.flagZ, t.flagS, t.f)) =
    some (1, 2, true, false, .fetch) := by decide

theorem test_T2_ldx :
    after { small with mem := [(0, 0x10010), (0x10, 0xFFFFF)] }
      (fun t => (t.x, t.br, t.a, t.flagZ, t.flagS)) =
    some (0xFFFFF, 0xFFFFF, 0, true, false) := by decide

theorem test_T3_ldi :
    after { small with mem := [(0, 0x18010), (0x10, 0xFFFFF)] }
      (fun t => (t.i, t.br)) =
    some (0x1FFF, 0xFFFFF) := by decide

theorem test_T4_sta :
    after { small with a := 0xF0000, mem := [(0, 0x20000)] }
      (fun t => (t.mem, t.br, t.ir, t.pc, t.flagS)) =
    some ([(0, 0xF0000)], 0xF0000, 0x20000, 1, true) := by decide

theorem test_T5_stx :
    after { small with x := 0x12345, mem := [(0, 0x28010)] }
      (fun t => (t.mem, t.br)) =
    some ([(0, 0x28010), (0x10, 0x12345)], 0x12345) := by decide

theorem test_T6_sti :
    after { small with i := 0x1ABC, mem := [(0, 0x30010), (0x10, 0xFFFFF)] }
      (fun t => (t.mem, t.br)) =
    some ([(0, 0x30010), (0x10, 0x01ABC)], 0x01ABC) := by decide

theorem test_T7_ena :
    after { small with a := 0x12345, mem := [(0, 0x38FFF)] }
      (fun t => (t.a, t.flagZ, t.flagS, t.br)) =
    some (0x00FFF, false, false, 0x38FFF) := by decide

theorem test_T11_eni :
    after { small with mem := [(0, 0x51FFF)] }
      (fun t => (t.i, t.ar, t.status)) =
    some (0x1FFF, 0x1FFF, .running) := by decide

theorem test_T12_lsp :
    after { small with mem := [(0, 0x58010), (0x10, 0xFFFFF)] }
      (fun t => (t.sp, t.br)) =
    some (0x1FFF, 0xFFFFF) := by decide

theorem test_T13_ssp :
    after { small with sp := 0xFFFF, mem := [(0, 0xD0010)] }
      (fun t => (t.mem, t.sp, t.br)) =
    some ([(0, 0xD0010), (0x10, 0x01FFF)], 0xFFFF, 0xD0010) := by decide

theorem test_S7_ena :
    after { small with mem := [(0, 0x39000)] }
      (fun t => (t.a, t.flagZ, t.flagS, t.pc, t.clock)) =
    some (0xFF000, false, true, 1, 2) := by decide

theorem test_K1_psh :
    after { small with a := 0xABCDE, sp := 0x10, mem := [(0, 0x40000)] }
      (fun t => (t.sp, t.mem, t.br, t.ar)) =
    some (0x11, [(0, 0x40000), (0x11, 0xABCDE)], 0xABCDE, 0x11) := by decide

theorem test_K3_pop :
    after { small with mem := [(0, 0x40001)] }
      (fun t => (t.a, t.sp, t.ar)) =
    some (0x40001, 0xFFFF, 0) := by decide

theorem test_K5_psh :
    after { small with a := 9, sp := 0x1F, mem := [(0, 0x40000)] }
      (fun t => (t.status, t.sp, t.br, t.ar, t.f, t.clock)) =
    some (.faulted (.outOfBounds 0x20), 0x20, 9, 0x20, .execute, 2) := by decide

theorem test_K6_pop :
    after { small with a := 9, sp := 0x20, mem := [(0, 0x40001)] }
      (fun t => (t.status, t.ar, t.a, t.sp, t.br)) =
    some (.faulted (.outOfBounds 0x20), 0x20, 9, 0x20, 0x40001) := by decide

theorem test_I1_ina :
    after { small with a := 0x7FFFF, mem := [(0, 0x48000)] }
      (fun t => (t.a, t.flagV, t.flagZ, t.flagS)) =
    some (0x80000, true, false, true) := by decide

theorem test_I2_ina :
    after { small with a := 0xFFFFF, flagS := true, flagV := true, mem := [(0, 0x48000)] }
      (fun t => (t.a, t.flagV, t.flagZ, t.flagS)) =
    some (0, false, true, false) := by decide

theorem test_I4_dca :
    after { small with a := 0x80000, flagS := true, mem := [(0, 0x48003)] }
      (fun t => (t.a, t.flagV, t.flagS)) =
    some (0x7FFFF, true, false) := by decide

theorem test_I5_dca :
    after { small with mem := [(0, 0x48003)] }
      (fun t => (t.a, t.flagV, t.flagS)) =
    some (0xFFFFF, false, true) := by decide

theorem test_I7_inx :
    after { small with x := 0xFFFFF, mem := [(0, 0x48001)] }
      (fun t => (t.x, t.flagV, t.flagZ)) =
    some (0, false, true) := by decide

theorem test_I8_dcx :
    after { small with mem := [(0, 0x48004)] }
      (fun t => (t.x, t.flagV)) =
    some (0xFFFFF, false) := by decide

theorem test_I9_ini :
    after { small with i := 0x1FFF, mem := [(0, 0x48002)] }
      (fun t => t.i) =
    some 0 := by decide

theorem test_I10_dci :
    after { small with mem := [(0, 0x48005)] }
      (fun t => t.i) =
    some 0x1FFF := by decide

theorem test_A2_ada :
    after { small with a := 0x80000, mem := [(0, 0x60010), (0x10, 0xFFFFF)] }
      (fun t => (t.a, t.flagV, t.flagZ, t.flagS, t.br)) =
    some (0x7FFFF, true, false, false, 0xFFFFF) := by decide

theorem test_A6_ada :
    after { small with a := 5, flagV := true, mem := [(0, 0x60010), (0x10, 0xFFFFB)] }
      (fun t => (t.a, t.flagV, t.flagZ)) =
    some (0, false, true) := by decide

theorem test_B5_sub :
    after { small with a := 0x7FFFF, mem := [(0, 0x68010), (0x10, 0xFFFFF)] }
      (fun t => (t.br, t.a, t.flagV, t.flagS)) =
    some (1, 0x80001, false, true) := by decide

theorem test_B8_ones_sub :
    after { small with cfg := { Config.std with subMode := .ones }, mem := [(0, 0x68010), (0x10, 0x80000)] }
      (fun t => (t.br, t.a, t.flagV, t.flagS)) =
    some (0x7FFFF, 0x80000, true, true) := by decide

theorem test_L1_and :
    after { small with a := 0xF0F0F, flagS := true, flagV := true, mem := [(0, 0x70010), (0x10, 0x0FF0F)] }
      (fun t => (t.a, t.br, t.flagV, t.flagS)) =
    some (0x00F0F, 0x0FF0F, true, false) := by decide

theorem test_L2_ora :
    after { small with a := 0xF0F0F, flagS := true, flagV := true, mem := [(0, 0x78010), (0x10, 0x0FF0F)] }
      (fun t => (t.a, t.br, t.flagV, t.flagS)) =
    some (0xFFF0F, 0x0FF0F, true, true) := by decide

theorem test_L3_xor :
    after { small with a := 0xF0F0F, flagS := true, flagV := true, mem := [(0, 0x80010), (0x10, 0x0FF0F)] }
      (fun t => (t.a, t.br, t.flagV, t.flagS)) =
    some (0xFF000, 0x0FF0F, true, true) := by decide

theorem test_L4_cma :
    after { small with mem := [(0, 0x88000)] }
      (fun t => (t.a, t.flagZ, t.flagS)) =
    some (0xFFFFF, false, true) := by decide

theorem test_J1_jpn :
    after { small with a := 0x80000, flagS := true, mem := [(0, 0x98010)] }
      (fun t => t.pc) =
    some 0x10 := by decide

theorem test_J2_jpn :
    after { small with a := 5, mem := [(0, 0x98010)] }
      (fun t => t.pc) =
    some 1 := by decide

theorem test_J4_jag :
    after { small with flagZ := true, mem := [(0, 0xA0010)] }
      (fun t => t.pc) =
    some 1 := by decide

theorem test_J11_jag :
    after { small with mem := [(0, 0xA0010)] }
      (fun t => (t.pc, t.flagZ)) =
    some (0x10, true) := by decide

theorem test_J6_jpz :
    after { small with flagZ := true, mem := [(0, 0xA8010)] }
      (fun t => t.pc) =
    some 0x10 := by decide

theorem test_J10_jpz :
    after { small with mem := [(0, 0xA8010)] }
      (fun t => (t.pc, t.flagZ)) =
    some (1, true) := by decide

theorem test_J8_jpo :
    after { small with a := 5, flagV := true, mem := [(0, 0xB0010)] }
      (fun t => (t.pc, t.flagV)) =
    some (0x10, false) := by decide

theorem test_J9_jpo :
    after { small with a := 5, mem := [(0, 0xB0010)] }
      (fun t => (t.pc, t.flagV)) =
    some (1, false) := by decide

theorem test_G3_jig :
    after { small with i := 7, mem := [(0, 0xC0010)] }
      (fun t => t.pc) =
    some 1 := by decide

theorem test_G4_jig :
    after { small with i := 8, mem := [(0, 0xC0010)] }
      (fun t => t.pc) =
    some 0x10 := by decide

theorem test_CR1_jsr :
    after { small with pc := 2, sp := 0x18, mem := [(2, 0xB8010)] }
      (fun t => (t.sp, t.pc, t.ar, t.clock)) =
    some (0x19, 0x10, 0x10, 2) := by decide

theorem test_CR5_jsr :
    after { small with sp := 0x1F, mem := [(0, 0xB8010)] }
      (fun t => (t.status, t.sp, t.pc, t.f)) =
    some (.faulted (.outOfBounds 0x20), 0x20, 1, .execute) := by decide

theorem test_CR3_ret :
    after { small with sp := 0x19, mem := [(0, 0xE8000), (0x19, 0xAA003)] }
      (fun t => (t.pc, t.sp, t.f, t.br, t.ir, t.flagZ)) =
    some (3, 0x18, .fetch, 0xE8000, 0xE8000, false) := by decide

theorem test_CR6_ret :
    after { small with sp := 0x20, mem := [(0, 0xE8000)] }
      (fun t => (t.status, t.pc, t.sp, t.f)) =
    some (.faulted (.outOfBounds 0x20), 1, 0x20, .execute) := by decide

theorem test_CR7_hlt :
    after { small with mem := [(0, 0xF0000)] }
      (fun t => (t.status, t.flagH, t.pc, t.clock, t.f, t.flagZ)) =
    some (.halted, true, 1, 2, .execute, false) := by decide

theorem test_H1_shal :
    after { small with flagV := true, a := 0x80000, mem := [(0, 0xC8000)] }
      (fun t => (t.a, t.flagV, t.flagZ, t.flagS)) =
    some (0, true, true, false) := by decide

theorem test_H3_shar :
    after { small with flagV := true, a := 0x80000, mem := [(0, 0xC8001)] }
      (fun t => (t.a, t.flagV, t.flagS)) =
    some (0x40000, true, false) := by decide

theorem test_H5_shxl :
    after { small with flagV := true, a := 5, x := 0x80001, mem := [(0, 0xC8002)] }
      (fun t => (t.x, t.a, t.flagV)) =
    some (2, 5, true) := by decide

theorem test_H6_shxr :
    after { small with flagV := true, a := 5, x := 0x80001, mem := [(0, 0xC8003)] }
      (fun t => (t.x, t.a, t.flagV)) =
    some (0x40000, 5, true) := by decide

theorem test_H7_saxl :
    after { small with flagV := true, a := 0x80001, x := 0x80001, mem := [(0, 0xD8000)] }
      (fun t => (t.a, t.x, t.flagV, t.flagS)) =
    some (3, 2, true, false) := by decide

theorem test_H8_saxr :
    after { small with flagV := true, a := 0x80001, x := 0x80001, mem := [(0, 0xD8001)] }
      (fun t => (t.a, t.x, t.flagV, t.flagS)) =
    some (0x40000, 0xC0000, true, false) := by decide

theorem test_O2_inp :
    after { small with input := [0x1234567], mem := [(0, 0xE0000)] }
      (fun t => (t.a, t.status, t.br, t.clock)) =
    some (0x34567, .running, 0xE0000, 2) := by decide

theorem test_O3_inp :
    after { small with a := 7, mem := [(0, 0xE0000)] }
      (fun t => (t.status, t.clock, t.pc, t.f, t.a)) =
    some (.waitingInput, 2, 1, .execute, 7) := by decide

theorem test_O4_out :
    after { small with a := 0x80000, flagS := true, mem := [(0, 0xE0001)] }
      (fun t => (t.br, t.output, t.a)) =
    some (0x80000, [0x80000], 0x80000) := by decide

theorem test_X1_error :
    after { small with a := 7, mem := [(0, 0x08020)] }
      (fun t => (t.status, t.a, t.ar, t.pc, t.f, t.clock)) =
    some (.faulted (.outOfBounds 0x20), 7, 0x20, 1, .execute, 2) := by decide

theorem test_X2_error :
    after { small with a := 7, mem := [(0, 0x21FFF)] }
      (fun t => (t.status, t.br, t.ar, t.mem)) =
    some (.faulted (.outOfBounds 0x1FFF), 7, 0x1FFF, [(0, 0x21FFF)]) := by decide

theorem test_X3_error :
    after { small with i := 0x1FFF, a := 7, mem := [(0, 0x0A010)] }
      (fun t => (t.status, t.ar, t.a, t.br, t.clock)) =
    some (.faulted (.outOfBounds 0x200F), 0x200F, 7, 0x0A010, 3) := by decide

theorem test_X5_error :
    after { small with mem := [(0, 0x0C030)] }
      (fun t => (t.status, t.br, t.ar, t.f, t.clock)) =
    some (.faulted (.outOfBounds 0x30), 0x0C030, 0x30, .indirect, 2) := by decide

theorem test_X7_error :
    after { small with mem := [(0, 0xFE005)] }
      (fun t => (t.status, t.ir, t.br, t.ar, t.f, t.clock)) =
    some (.faulted (.invalidOpcode 31), 0xFE005, 0, 0, .execute, 4) := by decide

theorem test_X8_error :
    after { small with a := 7, flagV := true, mem := [(0, 0x60020)] }
      (fun t => (t.status, t.a, t.flagV, t.br)) =
    some (.faulted (.outOfBounds 0x20), 7, true, 0x60020) := by decide

theorem test_X9_error :
    after { small with pc := 0x20 }
      (fun t => (t.status, t.ar, t.pc, t.f, t.clock)) =
    some (.faulted (.outOfBounds 0x20), 0x20, 0x20, .fetch, 1) := by decide

theorem test_I11_reserved_subcode_is_refused :
    (match step { small with mem := [(0, 0x48006)] } with
      | .refused r => some r
      | .next _ => none
      | .fault _ => none) = some (.reservedSubcode .incDec 6) := by decide

/-- Part 2.12, from the `ADA` on: its FETCH is counted, its EXECUTE is not begun. -/
theorem test_interruption :
    after { small with pc := 1, a := 5, clock := 2, interruptIn := some 1, mem := [(1, 0x60007)] }
      (fun t => (t.status, t.clock, t.a, t.pc, t.ir, t.f)) =
    some (.stopped, 3, 5, 2, 0x60007, .execute) := by decide

/-- 70_reset_and_hazards.md R264: an ended run makes no step. -/
theorem test_halted_run_makes_no_step :
    after { small with status := .halted } (fun t => t.pc) = none := by decide

theorem test_first_step_after_reset_runs_the_placed_word :
    after (State.reset.withFetchWord 20 0x39000) (fun t => (t.a, t.pc)) = some (0xFF000, 1) := by decide

/-- 46_io.md R221: the value ends the wait inside the `INP`; its flag-update step runs. -/
theorem test_set_input_completes_inp :
    (match hostCall (.setInput 0x1FFFFF) { small with status := .waitingInput, f := .execute, pc := 1, clock := 2 } with
      | .next t => some (t.a, t.flagS, t.f, t.status, t.clock)
      | .fault _ => none
      | .refused _ => none) = some (0xFFFFF, true, .fetch, .running, 2) := by decide

theorem test_load_then_start :
    (match hostCall (.load [0x38007, 0x40000, 0xF0000]) { small with a := 5, flagH := true, status := .halted } with
      | .next t => some (t.a, t.flagH, t.memLen, t.mem)
      | .fault _ => none
      | .refused _ => none) =
    some (0, false, 3, [(0, 0x38007), (1, 0x40000), (2, 0xF0000)]) := by decide

/-! ## The assembler and the image text -/

/-- The image of a source text, none if it has an error. -/
def imageOf (t : String) : Option (List Word) :=
  match assemble Config.std t.toList with
  | .ok image => some image
  | .error _ => none

/-- The error of a source text. -/
def errorOf (t : String) : Option AsmError :=
  match assemble Config.std t.toList with
  | .ok _ => none
  | .error e => some e

set_option maxRecDepth 20000 in
/-- S3, S4: a forward and a backward label, constants. -/
theorem test_assemble_labels_and_constants :
    imageOf "NAM P\nL: jpz D\n JMP L\nD: CON 5,$F,-1\nEND" =
      some [0xA8002, 0x90000, 0x00005, 0x0000F, 0xFFFFF] := by decide

set_option maxRecDepth 20000 in
/-- 30_encoding.md R81, R87, R88: modifiers, reserved words, a moved cursor, a label sum. -/
theorem test_assemble_modifiers_and_gaps :
    imageOf "NAM P\n LDA,I (R+1) // x\n\nR: RES 2\n ORG 5\n HLT\nEND" =
      some [0x0E002, 0, 0, 0, 0, 0xF0000] := by decide

set_option maxRecDepth 20000 in
/-- S6 and 30_encoding.md R73, R85, R89; that the malformed term is a syntax error is assumption log 29. -/
theorem test_assemble_errors :
    errorOf "NAM P\n HLT" = some .unclosedProgram ∧
    errorOf "NAM P\n FOO\nEND" = some (.unknownInstruction ['F', 'O', 'O']) ∧
    errorOf "NAM P\n LDA\nEND" = some .missingOperand ∧
    errorOf "NAM P\nL: LDA L+$1\nEND" = some .syntaxError ∧
    errorOf "NAM P\nNAM Q" = some .nestedProgram ∧
    errorOf "HLT" = some .noProgramOpen := by decide

set_option maxRecDepth 20000 in
/-- 30_encoding.md R82: more than one argument, or a malformed one, is invalid on a mnemonic that takes none too. -/
theorem test_assemble_arguments_of_no_operand_mnemonics :
    errorOf "NAM P\n HLT 1,2\nEND" = some .invalidArgument ∧
    errorOf "NAM P\n NOP 5X\nEND" = some .invalidArgument ∧
    imageOf "NAM P\n INA\n CMA\nEND" = some [0x48000, 0x88000] := by decide

/-- S5: `RES 4` at cursor 15 of an image of 15 words. -/
theorem test_S5_reserve :
    (AsmState.reserve ⟨15, List.replicate 15 7, true⟩ 4).image = List.replicate 15 7 ++ [0, 0, 0, 0] := by decide

/-- S2: the first line of the example image. -/
theorem test_S2_image_line :
    imageLine 0 0x08006 = "0000000000000\t00001000000000000110\n".toList := by decide

theorem test_S2_image_reads_back :
    readImage (imageText 0 [0x08006, 0x60007]) = some [0x08006, 0x60007] := by decide

/-! ## Witnesses: concrete values that meet the hypotheses of each statement together, each clause at its boundary -/

/-- The set-up with one word at address 0 whose run is at the start of a FETCH. -/
def running (w : Word) : State := { small with mem := [(0, w)] }

theorem test_running_is_at_fetch (w : Word) : atFetch (running w) := ⟨rfl, rfl, rfl⟩

theorem witness_DecodeOfEncodeIsTheInstruction :
    Config.std.wf = true ∧ Instr.wf (.dci ⟨true, true⟩ 0) = true ∧ Instr.wf (.lda ⟨true, true⟩ 0x1FFF) = true := by decide

theorem witness_EncodeOfDecodeIsTheWordIffIgnoredBitsAreZero :
    decode Config.std 0x4FFF9 = .ok (.inx ⟨true, true⟩ 0x3FF) ∧
    decode Config.std 0x4E001 = .ok (.inx ⟨true, true⟩ 0) := by decide

theorem witness_ExactlyOneOpcodeIsUnassigned : OpcodeMap.std.injective = true := by decide

theorem witness_DecoderRejectsExactlyTheWordsOfNoInstruction :
    Config.std.wf = true ∧ decode Config.std 0xFFFFF = .invalidOpcode 31 ∧
    decode Config.std 0x48007 = .reservedSubcode .incDec 7 ∧ decode Config.std 0x48005 = .ok (.dci ⟨false, false⟩ 0) := by
  decide

theorem witness_FetchReadsAtPcAndSelectsThePhase :
    let s := { small with pc := 0x1F }
    let t := { small with pc := 0x20 }
    s.f = .fetch ∧ s.pc.toNat < s.memLen ∧ t.f = .fetch ∧ t.memLen ≤ t.pc.toNat := by decide

theorem witness_IndexedAddsTheIndexUnreduced :
    { small with f := .indexed, ir := 0x0BFFF, i := 0x1FFF }.f = .indexed := by decide

theorem witness_IndirectFollowsOnePointer :
    let s := { small with f := .indirect, ar := 0x1F }
    let t := { small with f := .indirect, ar := 0x20 }
    s.f = .indirect ∧ s.ar.toNat < s.memLen ∧ t.f = .indirect ∧ t.memLen ≤ t.ar.toNat := by decide

theorem witness_IterationCountsClockUnlessInterrupted :
    { small with interruptIn := some 0 }.interruptIn = some 0 ∧ small.interruptIn = none ∧
    { small with interruptIn := some 1 }.interruptIn = some (0 + 1) := by decide

/-- The pointer of `LDA,I ($1E)` with `I = 1` is the last word, `0x1F`. -/
theorem witness_StepRunsTheDecodedInstruction :
    let s := { running 0x0E01E with i := 1 }
    reachesExecute s ∧ decode s.cfg (wordAtPc s) = .ok (.lda ⟨true, true⟩ 0x1E) :=
  ⟨⟨⟨rfl, rfl, rfl⟩, by decide, by decide⟩, by decide⟩

theorem witness_InvalidOpcodeIsRaisedAfterTheAddressingPhases :
    (reachesExecute (running 0xFE005) ∧ decode (running 0xFE005).cfg (wordAtPc (running 0xFE005)) = .invalidOpcode 31) ∧
    reachesExecute (running 0x48006) ∧
      decode (running 0x48006).cfg (wordAtPc (running 0x48006)) = .reservedSubcode .incDec 6 :=
  ⟨⟨⟨⟨rfl, rfl, rfl⟩, by decide, by decide⟩, by decide⟩, ⟨⟨rfl, rfl, rfl⟩, by decide, by decide⟩, by decide⟩

theorem witness_FetchAndIndirectErrorsLeaveTheirState :
    (atFetch { small with pc := 0x20 } ∧ { small with pc := 0x20 }.memLen ≤ ({ small with pc := 0x20 } : State).pc.toNat) ∧
    atFetch (running 0x0C020) ∧ (running 0x0C020).pc.toNat < (running 0x0C020).memLen ∧
      (wordAtPc (running 0x0C020)).getLsbD 14 = true ∧ (running 0x0C020).memLen ≤ operandAddr (running 0x0C020) :=
  ⟨⟨⟨rfl, rfl, rfl⟩, by decide⟩, ⟨rfl, rfl, rfl⟩, by decide, by decide, by decide⟩

theorem witness_InterruptionStopsBetweenPhases :
    let s := { small with pc := 0x1F, interruptIn := some 1 }
    s.status = .running ∧ s.f = .fetch ∧ s.pc.toNat < s.memLen ∧ s.interruptIn = some 1 := by decide

theorem witness_InstructionCostsItsPhasesInClockTicks :
    reachesExecute (running 0x0E01F) ∧ goesOn (running 0x0E01F) = true ∧ goesOn (running 0) = true :=
  ⟨⟨⟨rfl, rfl, rfl⟩, by decide, by decide⟩, by decide, by decide⟩

theorem witness_IndexedJumpWithoutIndirectionIgnoresTheIndex :
    let s := { running 0x93FFF with i := 0x1FFF }
    reachesExecute s ∧ decode s.cfg (wordAtPc s) = .ok (.jmp ⟨false, true⟩ 0x1FFF) :=
  ⟨⟨⟨rfl, rfl, rfl⟩, by decide, by decide⟩, by decide⟩

/-- The last word of memory and the first address that is none: the two clauses of an access at `AR`. -/
theorem witness_LoadsMoveTheWordReadThroughBr :
    ({ small with ar := 0x1F } : State).ar.toNat < small.memLen ∧
    small.memLen ≤ ({ small with ar := 0x20 } : State).ar.toNat := by decide

theorem witness_StoresWriteTheRegisterThroughBr :
    let s := { running 1 with ar := 0x1F }
    let t := { running 1 with ar := 0x20 }
    s.mem.wf = true ∧ s.ar.toNat < s.memLen ∧ t.memLen ≤ t.ar.toNat := by decide

theorem witness_SspStoresTheMaskedStackPointer :
    let s := { running 1 with ar := 0x1F }
    let t := { running 1 with ar := 0x20 }
    s.mem.wf = true ∧ s.ar.toNat < s.memLen ∧ t.memLen ≤ t.ar.toNat := by decide

/-- The last word, the first address that is none, and the wrap of `SP` to 0. -/
theorem witness_PshIncrementsThenWrites :
    let s := { running 1 with sp := 0x1E }
    let t := { running 1 with sp := 0x1F }
    let u := { running 1 with sp := 0xFFFF }
    ((0x1F : Addr).toNat = (s.sp.toNat + 1) % 65536 ∧ s.mem.wf = true ∧ (0x1F : Addr).toNat < s.memLen) ∧
    ((0x20 : Addr).toNat = (t.sp.toNat + 1) % 65536 ∧ t.memLen ≤ (0x20 : Addr).toNat) ∧
    (0 : Addr).toNat = (u.sp.toNat + 1) % 65536 ∧ u.mem.wf = true ∧ (0 : Addr).toNat < u.memLen := by decide

theorem witness_JsrStoresTheReturnAddress :
    let s := { running 1 with sp := 0x1E }
    let t := { running 1 with sp := 0x1F }
    let u := { running 1 with sp := 0xFFFF }
    ((0x1F : Addr).toNat = (s.sp.toNat + 1) % 65536 ∧ s.mem.wf = true ∧ (0x1F : Addr).toNat < s.memLen) ∧
    ((0x20 : Addr).toNat = (t.sp.toNat + 1) % 65536 ∧ t.memLen ≤ (0x20 : Addr).toNat) ∧
    (0 : Addr).toNat = (u.sp.toNat + 1) % 65536 ∧ u.mem.wf = true ∧ (0 : Addr).toNat < u.memLen := by decide

theorem witness_PopReadsThenDecrements :
    ({ small with sp := 0x1F } : State).sp.toNat < small.memLen ∧
    small.memLen ≤ ({ small with sp := 0x20 } : State).sp.toNat := by decide

theorem witness_RetReturnsWithoutFlagUpdate :
    ({ small with sp := 0x1F } : State).sp.toNat < small.memLen ∧
    small.memLen ≤ ({ small with sp := 0x20 } : State).sp.toNat := by decide

theorem witness_PopAfterPshRestores :
    let s := { running 1 with sp := 0x1E }
    let t := { running 1 with sp := 0xFFFF }
    (s.mem.wf = true ∧ (s.sp + 1).toNat < s.memLen) ∧ t.mem.wf = true ∧ (t.sp + 1).toNat < t.memLen := by decide

theorem witness_RetAfterJsrGoesOnAfterTheCall :
    let s := { running 1 with sp := 0x1E }
    let t := { running 1 with sp := 0xFFFF }
    (s.mem.wf = true ∧ (s.sp + 1).toNat < s.memLen) ∧ t.mem.wf = true ∧ (t.sp + 1).toNat < t.memLen := by decide

theorem witness_AdaAddsWithOverflow :
    let s := { small with a := 0xFFFFF, ar := 0x1F, mem := [(0x1F, 2)] }
    let t := { small with ar := 0x20 }
    ((2 : Word) = s.mem.get s.ar.toNat ∧ (1 : Word).toNat = (s.a.toNat + (2 : Word).toNat) % 2 ^ 20 ∧
      s.ar.toNat < s.memLen) ∧
    (0 : Word) = t.mem.get t.ar.toNat ∧ (0 : Word).toNat = (t.a.toNat + (0 : Word).toNat) % 2 ^ 20 ∧
      t.memLen ≤ t.ar.toNat := by decide

/-- B2 under `literal`, and a word that is not present under `ones`. -/
theorem witness_SubFollowsItsMode :
    let s := { small with a := 3, ar := 0x1F, mem := [(0x1F, 5)] }
    let t := { s with ar := 0x20, a := 5, cfg := { Config.std with subMode := .ones } }
    ((5 : Word) = s.mem.get s.ar.toNat ∧ s.cfg.subMode = .literal ∧
      (0xFFFFB : Word).toNat = (2 ^ 20 - (5 : Word).toNat) % 2 ^ 20 ∧
      ((0xFFFFF : Word).toNat : Int) = ((s.a.toNat : Int) - (5 : Word).toNat + 1) % 2 ^ 20 ∧ s.ar.toNat < s.memLen) ∧
    (0 : Word) = t.mem.get t.ar.toNat ∧ t.cfg.subMode = .ones ∧
      (0xFFFFF : Word).toNat = 2 ^ 20 - 1 - (0 : Word).toNat ∧
      ((5 : Word).toNat : Int) = ((t.a.toNat : Int) - (0 : Word).toNat) % 2 ^ 20 ∧ t.memLen ≤ t.ar.toNat := by decide

theorem witness_LogicCombinesBitByBit :
    let s := { small with ar := 0x1F, mem := [(0x1F, 5)] }
    let t := { small with ar := 0x20 }
    ((5 : Word) = s.mem.get s.ar.toNat ∧ s.ar.toNat < s.memLen) ∧
    (0 : Word) = t.mem.get t.ar.toNat ∧ t.memLen ≤ t.ar.toNat := by decide

theorem witness_JigTestsTheMaskedIndex :
    small.cfg.jigMask = 0x1FF8 ∧
    ({ small with cfg := { Config.std with jigMask := 0x1FFF } } : State).cfg.jigMask = 0x1FFF := by decide

theorem witness_InpTakesTheNextInputOrWaits :
    { small with input := [0x1234567] }.input = 0x1234567 :: [] ∧ small.input = [] := by decide

theorem witness_WaitingCoreKeepsItsStateUntilInput :
    let s := { small with status := .waitingInput, f := .execute }
    s.status = .waitingInput ∧ s.input = [] := by decide

theorem witness_LoadReplacesMemoryAndResets :
    State.reset.underWay = false ∧ (List.replicate 8192 (0 : Word)).length ≤ 8192 ∧
    ([7, 0] : List Word)[0]? = some 7 := by
  refine ⟨by decide, List.length_replicate.le, by decide⟩

theorem witness_StepKeepsMemoryWellFormed :
    { running 0x20010 with a := 5 }.memoryWf = true ∧ goesOn { running 0x20010 with a := 5 } = true ∧
    after { running 0x20010 with a := 5 } (fun t => t.mem.get 0x10) = some 5 := by decide

theorem witness_StepKeepsFlagsDescribingA :
    let s := { running 0x39FFF with flagZ := true }
    s.flagsDescribeA = true ∧ after s (fun t => (t.a, t.flagS)) = some (0xFFFFF, true) := by decide

theorem witness_StepKeepsTheConfiguration :
    goesOn (running 0x48000) = true := by decide

theorem witness_OnlyHltSetsH :
    (running 0xF0000).haltAgrees = true ∧ after (running 0xF0000) (fun t => t.flagH) = some true := by decide

theorem witness_RegistersAreWrittenOnlyByTheirInstructions :
    after (running 0x38005) (fun t => t.a != small.a) = some true ∧
    after (running 0x48001) (fun t => t.x != small.x) = some true ∧
    after (running 0x50003) (fun t => t.i != small.i) = some true ∧
    after (running 0x40000) (fun t => t.sp != small.sp) = some true ∧
    after { running 0xB0010 with flagV := true } (fun t => t.flagV) = some false ∧
    after { small with status := .waitingInput, f := .execute, input := [5] } (fun t => t.a) = some 5 := by decide

/-- A store at the effective address, a push at the last word, and an instruction that stores nothing. -/
theorem witness_OneStepChangesAtMostOneWord :
    ({ running 0x20010 with a := 5 }.f = .fetch ∧
      after { running 0x20010 with a := 5 } (fun t => (t.ar, t.mem)) = some (0x10, [(0, 0x20010), (0x10, 5)])) ∧
    after { running 0x40000 with a := 5, sp := 0x1E } (fun t => (t.sp, t.mem)) =
      some (0x1F, [(0, 0x40000), (0x1F, 5)]) ∧
    after (running 0x48000) (fun t => t.mem) = some [(0, 0x48000)] := by decide

theorem witness_OutputOnlyGrowsAtOut :
    after { running 0xE0001 with a := 5 } (fun t => t.output) = some [5] ∧
    after (running 0x48000) (fun t => t.output) = some [] := by decide

theorem witness_StepKeepsPcInReach :
    let s := { small with memLen := 8192, pc := 0x1FFF }
    s.memoryWf = true ∧ s.pcInReach = true ∧ after s (fun t => t.pc) = some 0x2000 := by decide

theorem witness_StepEndsBetweenInstructions :
    (running 0xE0000).phaseAgrees = true ∧ after (running 0xE0000) (fun t => (t.status, t.f)) = some (.waitingInput, .execute) ∧
    after (running 0x48000) (fun t => (t.status, t.f)) = some (.running, .fetch) := by decide

theorem witness_ArBrAndIrDoNotCarryOver :
    let s := { small with pc := 0x1F, interruptIn := some 1 }
    s.status = .running ∧ s.f = .fetch ∧ s.interruptIn ≠ some 0 ∧ s.pc.toNat < s.memLen := by decide

theorem witness_ImageTextReadsBackAsTheImage :
    (List.replicate 8192 (0xFFFFF : Word)).length ≤ 8192 := List.length_replicate.le

theorem witness_ReserveGrowsWithoutWriting :
    let st : AsmState := ⟨15, List.replicate 15 7, true⟩
    14 < st.image.length ∧ st.image.length ≤ 15 ∧ 15 < st.cursor + 4 := by decide

/-- S4. -/
theorem witness_ConWritesItsValuesInTurn :
    (match emitConstants [['5'], ['1', '0'], ['1', '5']] ⟨6, [1, 2, 3, 4, 5, 6], true⟩ with
      | .ok t => some (t.cursor, t.image)
      | .error _ => none) = some (9, [1, 2, 3, 4, 5, 6, 5, 10, 15]) ∧
    [['5'], ['1', '0'], ['1', '5']][2]? = some ['1', '5'] := by decide

end Sys2Proof.Tests
end

section
/-! The phases before EXECUTE, by the phase `F` selects and the validity of the address they read
(40_instruction_cycle.md R104, R105, R107). -/

namespace Sys2Proof.Proofs

open Sys2Proof.Machine Sys2Proof.Claims

theorem addrOfWord_eq_ofNat_mod (w : Word) : addrOfWord w = BitVec.ofNat 16 (w.toNat % 8192) := by
  simp only [addrOfWord, addrOfField, low13, ← BitVec.toNat_inj, BitVec.toNat_setWidth, BitVec.toNat_ofNat]

theorem addr_add_one_eq_ofNat (p : Addr) : p + 1 = BitVec.ofNat 16 (p.toNat + 1) := by
  simp [BitVec.ofNat_add]

/-- The lookup order of R105: bit 13 of the word, then bit 14. -/
theorem phaseAfterFetch_eq_bits (w : Word) :
    phaseAfterFetch w =
      if w.getLsbD 13 then .indexed else if w.getLsbD 14 then .indirect else .execute := rfl

theorem answersUpToSc_next_freeSc (s : State) : answersUpToSc (.next (freeSc s)) s := ⟨_, _, rfl⟩

theorem raises_raise (e : RuntimeError) (s : State) : raises (raise e s) e s := ⟨_, _, rfl⟩

theorem phase_of_fetch {s : State} (hf : s.f = .fetch) : phase s = fetchPhase s := by
  simp [phase, hf]

theorem phase_of_indirect {s : State} (hf : s.f = .indirect) : phase s = indirectPhase s := by
  simp [phase, hf]

theorem fetchPhase_valid {s : State} (hv : s.pc.toNat < s.memLen) :
    fetchPhase s = .next (freeSc { s with
      br := wordAtPc s, ir := wordAtPc s, pc := s.pc + 1
      ar := addrOfWord (wordAtPc s), f := phaseAfterFetch (wordAtPc s) }) := by
  unfold fetchPhase
  exact memRead_valid hv

/-- `AR <- PC` comes before the read, so the error finds it done (R104). -/
theorem fetchPhase_invalid {s : State} (hv : s.memLen ≤ s.pc.toNat) :
    fetchPhase s = raise (.outOfBounds s.pc) { s with ar := s.pc } := by
  unfold fetchPhase
  exact memRead_invalid hv

/-- `F` is EXECUTE whatever bits 14 and 13 of the pointer are: one level of indirection only (R107). -/
theorem indirectPhase_valid {s : State} (hv : s.ar.toNat < s.memLen) :
    indirectPhase s = .next (freeSc { s with
      br := s.mem.get s.ar.toNat, ar := addrOfWord (s.mem.get s.ar.toNat), f := .execute }) :=
  memRead_valid hv

theorem indirectPhase_invalid {s : State} (hv : s.memLen ≤ s.ar.toNat) :
    indirectPhase s = raise (.outOfBounds s.ar) s :=
  memRead_invalid hv

/-- Settles O6, by whether `PC` is below `MEMLEN`. -/
theorem fetchReadsAtPcAndSelectsThePhase : Obligations.FetchReadsAtPcAndSelectsThePhase := by
  intro s hf
  rw [phase_of_fetch hf]
  constructor
  · intro hv
    rw [fetchPhase_valid hv, ← addr_add_one_eq_ofNat, ← addrOfWord_eq_ofNat_mod, ← phaseAfterFetch_eq_bits]
    exact answersUpToSc_next_freeSc _
  · intro hv
    rw [fetchPhase_invalid hv]
    exact raises_raise _ _

/-- Settles O8, by whether `AR` is below `MEMLEN`. -/
theorem indirectFollowsOnePointer : Obligations.IndirectFollowsOnePointer := by
  intro s hf
  rw [phase_of_indirect hf]
  constructor
  · intro hv
    rw [indirectPhase_valid hv, ← addrOfWord_eq_ofNat_mod]
    exact answersUpToSc_next_freeSc _
  · intro hv
    rw [indirectPhase_invalid hv]
    exact raises_raise _ _

end Sys2Proof.Proofs
end

section
/-! The data transfers (41_data_transfer.md R131 to R140): the shared operations in the terms of the statements, then each
instruction as a use of one of them. -/

namespace Sys2Proof.Proofs

open Sys2Proof.Machine Sys2Proof.Claims

/-- R109 and R112 in the terms of the statements: `Z` by the value of `A`, `S` by its bit 19. -/
theorem endExecute_eq_next_ended (s : State) : endExecute s = .next (ended s) := by
  have hz : (s.a == 0) = decide (s.a.toNat = 0) := by
    simp [Bool.beq_eq_decide_eq, ← BitVec.toNat_inj]
  have hs : s.a.msb = s.a.getLsbD 19 := BitVec.msb_eq_getLsbD_last s.a
  simp only [endExecute, flagUpdate, ended, hz, hs]

theorem loadBR_valid {s : State} {k : State → Out} (hv : s.ar.toNat < s.memLen) :
    loadBR s k = k { s with br := s.mem.get s.ar.toNat } :=
  memRead_valid hv

theorem raises_loadBR_invalid {s : State} (k : State → Out) (hv : s.memLen ≤ s.ar.toNat) :
    raises (loadBR s k) (.outOfBounds s.ar) s := by
  rw [loadBR, memRead_invalid hv]
  exact raises_raise _ _

/-- A load that moves the word on from `BR` by `move` and ends (20_memory.md R45). -/
theorem loadBR_endExecute_valid {s : State} (move : State → State) (hv : s.ar.toNat < s.memLen) :
    loadBR s (fun t => endExecute (move t)) =
      .next (ended (move { s with br := s.mem.get s.ar.toNat })) := by
  rw [loadBR_valid hv, endExecute_eq_next_ended]

theorem storedAt_memWrite_endExecute {s : State} {addr : Addr} (v : Word) (hm : s.mem.wf = true)
    (hv : addr.toNat < s.memLen) :
    storedAt (memWrite addr v s endExecute) addr.toNat v (ended s) := by
  rw [memWrite_valid hv, endExecute_eq_next_ended]
  exact ⟨_, rfl, rfl, Memory.get_set_same hm _ _, fun _ hl => Memory.get_set_other hl v⟩

theorem raises_memWrite_invalid {s : State} {addr : Addr} (v : Word) (k : State → Out)
    (hv : s.memLen ≤ addr.toNat) : raises (memWrite addr v s k) (.outOfBounds addr) s := by
  rw [memWrite_invalid hv]
  exact raises_raise _ _

theorem low13_eq_ofNat_mod (w : Word) : low13 w = BitVec.ofNat 13 (w.toNat % 8192) := by
  simp only [low13, ← BitVec.toNat_inj, BitVec.toNat_setWidth, BitVec.toNat_ofNat, Nat.reducePow, Nat.mod_mod]

/-- `sext_20` (00_scope.md R7) as R138 words it: the seven bits above a set bit 12 are or-ed in. -/
theorem sext20_eq_or_high_bits (v : Field) :
    sext20 v = if v.getLsbD 12 then BitVec.ofNat 20 v.toNat ||| 0xFE000 else BitVec.ofNat 20 v.toNat := by
  have hmsb : v.msb = v.getLsbD 12 := BitVec.msb_eq_getLsbD_last v
  -- the operand lies below the seven bits, so adding them is or-ing them in
  have hadd : 0xFE000 + v.toNat = 0xFE000 ||| v.toNat := Nat.two_pow_add_eq_or_of_lt v.isLt 0x7F
  have hv : (v.setWidth 20).toNat = v.toNat := BitVec.toNat_setWidth_of_le (by decide)
  rw [BitVec.ofNat_toNat, ← BitVec.toNat_inj, sext20, BitVec.toNat_signExtend, hmsb]
  split
  · rw [BitVec.toNat_or, hv, Nat.add_comm, Nat.or_comm]
    exact hadd
  · rfl

/-! What the arms of `exec` come to, with the address and the word of the store written out. -/

section Arms
variable (m : Mode) (a : Field) (s : State)

theorem exec_lda : exec (.lda m a) s = loadBR s fun t => endExecute { t with a := t.br } := rfl

theorem exec_ldx : exec (.ldx m a) s = loadBR s fun t => endExecute { t with x := t.br } := rfl

theorem exec_ldi : exec (.ldi m a) s = loadBR s fun t => endExecute { t with i := low13 t.br } := rfl

theorem exec_lsp : exec (.lsp m a) s = loadBR s fun t => endExecute { t with sp := addrOfWord t.br } := rfl

theorem exec_sta : exec (.sta m a) s = memWrite s.ar s.a { s with br := s.a } endExecute := rfl

theorem exec_stx : exec (.stx m a) s = memWrite s.ar s.x { s with br := s.x } endExecute := rfl

theorem exec_sti :
    exec (.sti m a) s = memWrite s.ar (s.i.setWidth 20) { s with br := s.i.setWidth 20 } endExecute := rfl

end Arms

/-- Settles O16: the meaning is the end of EXECUTE and nothing else. -/
theorem nopOnlyEndsExecute : Obligations.NopOnlyEndsExecute := fun _ _ s => endExecute_eq_next_ended s

/-- Settles O17, by whether `AR` is below `MEMLEN`. -/
theorem loadsMoveTheWordReadThroughBr : Obligations.LoadsMoveTheWordReadThroughBr := by
  intro m a s
  constructor
  · intro hv
    rw [exec_lda, exec_ldx, exec_ldi, exec_lsp, ← low13_eq_ofNat_mod, ← addrOfWord_eq_ofNat_mod]
    exact ⟨loadBR_endExecute_valid _ hv, loadBR_endExecute_valid _ hv, loadBR_endExecute_valid _ hv,
      loadBR_endExecute_valid _ hv⟩
  · intro hv
    simp only [List.forall_mem_cons, exec_lda, exec_ldx, exec_ldi, exec_lsp]
    exact ⟨raises_loadBR_invalid _ hv, raises_loadBR_invalid _ hv, raises_loadBR_invalid _ hv,
      raises_loadBR_invalid _ hv, by simp⟩

/-- Settles O18, by whether `AR` is below `MEMLEN`; `BR` is written before the address is looked at. -/
theorem storesWriteTheRegisterThroughBr : Obligations.StoresWriteTheRegisterThroughBr := by
  intro m a s
  rw [exec_sta, exec_stx, exec_sti, BitVec.ofNat_toNat]
  constructor
  · intro hm hv
    exact ⟨storedAt_memWrite_endExecute _ hm hv, storedAt_memWrite_endExecute _ hm hv,
      storedAt_memWrite_endExecute _ hm hv⟩
  · intro hv
    exact ⟨raises_memWrite_invalid _ _ hv, raises_memWrite_invalid _ _ hv, raises_memWrite_invalid _ _ hv⟩

/-- Settles O19: both meanings have only the operand to look at, so all that is left is the sign extension. -/
theorem immediatesAreEnteredWhateverTheModifiers : Obligations.ImmediatesAreEnteredWhateverTheModifiers := by
  intro m v s
  rw [← sext20_eq_or_high_bits]
  exact ⟨endExecute_eq_next_ended _, endExecute_eq_next_ended _⟩

end Sys2Proof.Proofs
end

section
/-! The stack instructions (42_stack.md R151, R152): what counting `SP` up and down is modulo 2^16, then `PSH` as a store
at the counted `SP` and `POP` as a load at the old one. -/

namespace Sys2Proof.Proofs

open Sys2Proof.Machine Sys2Proof.Claims

theorem addr_add_one_eq_of_toNat {p q : Addr} (h : p.toNat = (q.toNat + 1) % 65536) : q + 1 = p := by
  rw [← BitVec.toNat_inj, BitVec.toNat_add, h]
  rfl

/-- `0 - 1` wraps to 0xFFFF (42_stack.md R152). -/
theorem addr_sub_one_eq_ofInt (p : Addr) : p - 1 = BitVec.ofInt 16 (p.toNat - 1) := by
  rw [← BitVec.toNat_inj, BitVec.toNat_ofInt]
  bv_omega

theorem exec_psh (m : Mode) (g : BitVec 12) (s : State) :
    exec (.psh m g) s =
      memWrite (s.sp + 1) s.a { s with sp := s.sp + 1, br := s.a, ar := s.sp + 1 } endExecute := rfl

theorem exec_pop (m : Mode) (g : BitVec 12) (s : State) :
    exec (.pop m g) s =
      loadBR { s with ar := s.sp } fun t => endExecute { t with a := t.br, sp := t.sp - 1 } := rfl

/-- Settles O21, by whether the counted `SP` is below `MEMLEN`; the three registers are written before it is looked at. -/
theorem pshIncrementsThenWrites : Obligations.PshIncrementsThenWrites := by
  intro m g s p hp
  rw [exec_psh, addr_add_one_eq_of_toNat hp]
  exact ⟨fun hm hv => storedAt_memWrite_endExecute _ hm hv, fun hv => raises_memWrite_invalid _ _ hv⟩

/-- Settles O22, by whether `SP` is below `MEMLEN`; it is counted down only after a read that succeeds. -/
theorem popReadsThenDecrements : Obligations.PopReadsThenDecrements := by
  intro m g s
  rw [exec_pop, ← addr_sub_one_eq_ofInt]
  exact ⟨fun hv => loadBR_endExecute_valid _ hv, fun hv => raises_loadBR_invalid _ hv⟩

end Sys2Proof.Proofs
end

section
/-! The arithmetic and logic instructions (43_arithmetic_logic.md R162 to R174): counting by one in a width, what `ovf` says
of the sign bits, then each instruction as an end of EXECUTE or as a load that moves the word on. -/

namespace Sys2Proof.Proofs

open Sys2Proof.Machine Sys2Proof.Claims

/-! Counting, in every width: the registers are 20 and 13 bits wide. -/

theorem add_one_eq_ofNat {n : Nat} (v : BitVec n) : v + 1 = BitVec.ofNat n (v.toNat + 1) := by
  rw [BitVec.ofNat_add, BitVec.ofNat_toNat, BitVec.setWidth_eq]
  rfl

theorem sub_one_eq_ofInt {n : Nat} (v : BitVec n) : v - 1 = BitVec.ofInt n (v.toNat - 1) := by
  rw [Int.sub_eq_add_neg, BitVec.ofInt_add, BitVec.ofInt_neg, BitVec.ofInt_natCast, BitVec.ofNat_toNat,
    BitVec.setWidth_eq, BitVec.sub_eq_add_neg]
  rfl

theorem word_not_eq_ofNat (w : Word) : ~~~w = BitVec.ofNat 20 (0xFFFFF - w.toNat) := by
  rw [← BitVec.toNat_inj, BitVec.toNat_not, BitVec.toNat_ofNat, Nat.mod_eq_of_lt (by omega)]

/-- `ovf` (R161) on the unsigned values: a set sign bit is a value of at least 2^19. -/
theorem ovf_iff_toNat {a b r : Word} :
    ovf a b r = true ↔
      (2 ^ 19 ≤ a.toNat ↔ 2 ^ 19 ≤ b.toNat) ∧ ¬(2 ^ 19 ≤ r.toNat ↔ 2 ^ 19 ≤ a.toNat) := by
  simp [ovf, BitVec.msb_eq_decide]

/-- `ovf` (R161) on the sign bits, bit 19. -/
theorem ovf_eq_decide_getLsbD (a b r : Word) :
    ovf a b r = decide (a.getLsbD 19 = b.getLsbD 19 ∧ r.getLsbD 19 ≠ a.getLsbD 19) := by
  simp only [ovf, BitVec.msb_eq_getLsbD_last, Nat.add_one_sub_one, bne, Bool.beq_eq_decide_eq, Bool.decide_and,
    decide_not]

/-- Adding 1 overflows at the largest value only (R162). -/
theorem ovf_add_one (a : Word) : ovf a 1 (a + 1) = (a == 0x7FFFF) := by
  rw [Bool.eq_iff_iff, ovf_iff_toNat, beq_iff_eq]
  bv_omega

/-- Adding -1 overflows at the smallest value only (R165). -/
theorem ovf_add_neg_one (a : Word) : ovf a 0xFFFFF (a + 0xFFFFF) = (a == 0x80000) := by
  rw [Bool.eq_iff_iff, ovf_iff_toNat, beq_iff_eq]
  bv_omega

theorem addToA_one (s : State) :
    addToA 1 s = { s with a := BitVec.ofNat 20 (s.a.toNat + 1), flagV := s.a == 0x7FFFF } := by
  rw [addToA, ovf_add_one, add_one_eq_ofNat]

theorem addToA_neg_one (s : State) :
    addToA 0xFFFFF s = { s with a := BitVec.ofInt 20 (s.a.toNat - 1), flagV := s.a == 0x80000 } := by
  have hdec : s.a + 0xFFFFF = s.a - 1 := (BitVec.sub_eq_add_neg s.a 1).symm
  rw [addToA, ovf_add_neg_one, hdec, sub_one_eq_ofInt]

/-! What the arms of `exec` come to. -/

section Arms
variable (m : Mode) (v : Field) (g : BitVec 10) (s : State)

theorem exec_ina : exec (.ina m g) s = endExecute (addToA 1 s) := rfl

theorem exec_dca : exec (.dca m g) s = endExecute (addToA 0xFFFFF s) := rfl

theorem exec_inx : exec (.inx m g) s = endExecute { s with x := s.x + 1 } := rfl

theorem exec_dcx : exec (.dcx m g) s = endExecute { s with x := s.x - 1 } := rfl

theorem exec_ini : exec (.ini m g) s = endExecute { s with i := s.i + 1 } := rfl

theorem exec_dci : exec (.dci m g) s = endExecute { s with i := s.i - 1 } := rfl

theorem exec_ada : exec (.ada m v) s = loadBR s fun t => endExecute (addToA t.br t) := rfl

theorem exec_and : exec (.and m v) s = loadBR s fun t => endExecute { t with a := t.a &&& t.br } := rfl

theorem exec_ora : exec (.ora m v) s = loadBR s fun t => endExecute { t with a := t.a ||| t.br } := rfl

theorem exec_xor : exec (.xor m v) s = loadBR s fun t => endExecute { t with a := t.a ^^^ t.br } := rfl

theorem exec_cma : exec (.cma m v) s = endExecute { s with a := ~~~s.a } := rfl

end Arms

/-- Settles O24: both are the addition to `A`, of 1 and of -1, whose overflow is at one value of `A` each. -/
theorem inaAndDcaCountAndSetOverflow : Obligations.InaAndDcaCountAndSetOverflow := by
  intro m g s
  rw [exec_ina, exec_dca, addToA_one, addToA_neg_one]
  exact ⟨endExecute_eq_next_ended _, endExecute_eq_next_ended _⟩

/-- Settles O25: the counting is that of the register's own width. -/
theorem xAndICountWithoutOverflow : Obligations.XAndICountWithoutOverflow := by
  intro m g s
  rw [exec_inx, exec_dcx, exec_ini, exec_dci]
  simp only [add_one_eq_ofNat, sub_one_eq_ofInt]
  exact ⟨endExecute_eq_next_ended _, endExecute_eq_next_ended _, endExecute_eq_next_ended _,
    endExecute_eq_next_ended _⟩

/-- Settles O26, by whether `AR` is below `MEMLEN`; `r` is the sum that the addition to `A` writes. -/
theorem adaAddsWithOverflow : Obligations.AdaAddsWithOverflow := by
  rintro m v s w r rfl hr
  have hsum : s.a + s.mem.get s.ar.toNat = r := by rw [← BitVec.toNat_inj, BitVec.toNat_add, hr]
  rw [exec_ada, ← ovf_eq_decide_getLsbD, ← hsum]
  exact ⟨fun hv => loadBR_endExecute_valid _ hv, fun hv => raises_loadBR_invalid _ hv⟩

/-- Settles O29, by whether `AR` is below `MEMLEN`; each bit of the result is the library's fact on the operation. -/
theorem logicCombinesBitByBit : Obligations.LogicCombinesBitByBit := by
  rintro m v s w rfl
  constructor
  · intro hv
    rw [exec_and, exec_ora, exec_xor]
    exact ⟨⟨_, loadBR_endExecute_valid _ hv, fun _ _ => BitVec.getLsbD_and⟩,
      ⟨_, loadBR_endExecute_valid _ hv, fun _ _ => BitVec.getLsbD_or⟩,
      ⟨_, loadBR_endExecute_valid _ hv, fun _ _ => BitVec.getLsbD_xor⟩⟩
  · intro hv
    simp only [List.forall_mem_cons, exec_and, exec_ora, exec_xor]
    exact ⟨raises_loadBR_invalid _ hv, raises_loadBR_invalid _ hv, raises_loadBR_invalid _ hv, by simp⟩

/-- Settles O30: complementing is subtracting from the word of all ones. -/
theorem cmaComplementsA : Obligations.CmaComplementsA := by
  intro m g s
  rw [exec_cma, word_not_eq_ofNat]
  exact endExecute_eq_next_ended _

end Sys2Proof.Proofs
end

section
/-! The unconditional jump (44_control_transfer.md R191): the jump to `BR & 0x1FFF` as arithmetic on `BR`, then `JMP` as the
end of EXECUTE after it. -/

namespace Sys2Proof.Proofs

open Sys2Proof.Machine Sys2Proof.Claims

theorem jumpBR_eq_pc_mod (s : State) : jumpBR s = { s with pc := BitVec.ofNat 16 (s.br.toNat % 8192) } := by
  rw [jumpBR, addrOfWord_eq_ofNat_mod]

theorem exec_jmp (m : Mode) (a : Field) (s : State) : exec (.jmp m a) s = endExecute (jumpBR s) := rfl

/-- Settles O31: the jump takes the low 13 bits of `BR`, and the end of EXECUTE follows on it. -/
theorem jmpLoadsPcFromBr : Obligations.JmpLoadsPcFromBr := by
  intro m a s
  rw [exec_jmp, jumpBR_eq_pc_mod]
  exact endExecute_eq_next_ended _

end Sys2Proof.Proofs
end

section
/-! The output instruction (46_io.md R222): both transfers of `OUT` written out, then `OUT` as the end of EXECUTE after them. -/

namespace Sys2Proof.Proofs

open Sys2Proof.Machine Sys2Proof.Claims

theorem exec_out (m : Mode) (g : BitVec 12) (s : State) :
    exec (.out m g) s = endExecute { s with br := s.a, output := s.output ++ [s.a] } := rfl

/-- Settles O42: the word output is read from `BR` once `A` is there, and the end of EXECUTE follows. -/
theorem outAppendsAToTheOutput : Obligations.OutAppendsAToTheOutput := by
  intro m g s
  rw [exec_out]
  exact endExecute_eq_next_ended _

end Sys2Proof.Proofs
end

section
/-! The state after reset (70_reset_and_hazards.md R261, 10_state.md R31): `State.reset` writes every register and flag out. -/

namespace Sys2Proof.Proofs

open Sys2Proof.Machine Sys2Proof.Claims

/-- Settles O43: each register and each flag is the value `State.reset` gives that field. -/
theorem resetLeavesEveryRegisterZero : Obligations.ResetLeavesEveryRegisterZero :=
  ⟨rfl, rfl, rfl, rfl, rfl, rfl, rfl, rfl, rfl, rfl, rfl, rfl, rfl, rfl, rfl⟩

end Sys2Proof.Proofs
end

section
/-! The word and its fields (30_encoding.md R60, R61, R73): the encoder against the decoder, for every `OPC`, `SUBCODE`
and selecting bit of the stack family. -/

namespace Sys2Proof.Proofs

open Sys2Proof.Laws

/-! The opcode map: which group a number names. -/

theorem Group.mem_all (g : Group) : g ∈ Group.all := by cases g <;> decide

theorem OpcodeMap.values_eq_map_get (o : OpcodeMap) : o.values = Group.all.map o.get := rfl

theorem OpcodeMap.get_injective {o : OpcodeMap} (ho : o.injective = true) : Function.Injective o.get := by
  intro g g' h
  have hnodup : (Group.all.map o.get).Nodup := by
    rw [← OpcodeMap.values_eq_map_get]
    exact of_decide_eq_true ho
  exact List.inj_on_of_nodup_map hnodup (Group.mem_all g) (Group.mem_all g') h

theorem OpcodeMap.get_of_group? {o : OpcodeMap} {op : BitVec 5} {g : Group} (h : o.group? op = some g) :
    o.get g = op := by
  simpa using List.find?_some h

theorem OpcodeMap.group?_get {o : OpcodeMap} (ho : o.injective = true) (g : Group) :
    o.group? (o.get g) = some g := by
  cases h : o.group? (o.get g) with
  | none => simpa using List.find?_eq_none.mp h g (Group.mem_all g)
  | some g' => rw [OpcodeMap.get_injective ho (OpcodeMap.get_of_group? h)]

theorem OpcodeMap.group?_eq_none_iff {o : OpcodeMap} {op : BitVec 5} :
    o.group? op = none ↔ ∀ g, o.get g ≠ op := by
  simp [OpcodeMap.group?, List.find?_eq_none, Group.mem_all]

/-! The fields of a word. -/

theorem packWord_of_fields (w : Word) : packWord (opcodeField w) (modeField w) (low13 w) = w := by
  apply BitVec.eq_of_getLsbD_eq
  intro k hk
  simp only [packWord, opcodeField, modeField, low13, BitVec.getLsbD_append, BitVec.getLsbD_extractLsb',
    BitVec.getLsbD_setWidth, BitVec.getLsbD_ofBool]
  split_ifs with h13 h14 h15
  · simp [h13]
  · simp [show k = 13 by omega]
  · simp [show k = 14 by omega]
  · simp [show k - 13 - 1 - 1 < 5 by omega, show 15 + (k - 13 - 1 - 1) = k by omega]

/-- The operand field the encoder writes (30_encoding.md R73). -/
def encodedField (c : SubcodeMap) (i : Instr) : Field :=
  if i.mnemonic.group.takesOperand then i.operand else i.mnemonic.subcode c

theorem encode_eq_packWord (c : Config) (i : Instr) :
    encode c i = packWord (c.opc.get i.mnemonic.group) i.mode (encodedField c.sub i) := rfl

theorem packWord_left_cancel {op : BitVec 5} {m : Mode} {u v : Field} :
    packWord op m u = packWord op m v ↔ u = v := by
  constructor
  · intro h
    rw [← low13_packWord op m u, h, low13_packWord]
  · exact congrArg _

/-! The low bits of the operand field that select a member, and the bits above them (R64, R67). -/

theorem extract_above_setWidth {n k : Nat} (sub : BitVec n) : (sub.setWidth 13).extractLsb' n k = 0 := by
  ext j hj
  simp

theorem setWidth_low_iff {n k : Nat} (hnk : n + k = 13) (f : Field) :
    (f.setWidth n).setWidth 13 = f ↔ f.extractLsb' n k = 0 := by
  have hf := f.isLt
  constructor
  · intro h
    rw [← h]
    exact extract_above_setWidth _
  · intro h
    ext j hj
    simp only [BitVec.getElem_setWidth, BitVec.getLsbD_setWidth]
    by_cases hjn : j < n
    · simp [hjn, hj]
    · have := congrArg (BitVec.getLsbD · (j - n)) h
      simp [hjn, show j - n < k by omega, show n + (j - n) = j by omega] at this ⊢
      simp_all


/-! Decoding: what is said of the instruction a group finds in a word. -/

/-- `i` is a member of group `g` with the flags `m`, and the encoder would write the operand field `f` for it exactly
when its ignored bits are 0. -/
def ReadsAs (c : SubcodeMap) (g : Group) (m : Mode) (f : Field) (i : Instr) : Prop :=
  i.mnemonic.group = g ∧ i.mode = m ∧ (encodedField c i = f ↔ i.wf = true)

theorem decodeStack_readsAs {c : SubcodeMap} {m : Mode} {f : Field} {i : Instr} (h : decodeStack c m f = .ok i) :
    ReadsAs c .stack m f i := by
  have hfield := atBit_extract_iff c.stackBit f
  simp only [decodeStack] at h
  split_ifs at h with hsub hsub <;> cases h <;> rw [hsub] at hfield <;>
    exact ⟨rfl, rfl, hfield.trans beq_iff_eq.symm⟩

theorem decodeIncDec_readsAs {c : SubcodeMap} {m : Mode} {f : Field} {i : Instr} (h : decodeIncDec c m f = .ok i) :
    ReadsAs c .incDec m f i := by
  have hfield := setWidth_low_iff (n := 3) (k := 10) rfl f
  simp only [decodeIncDec] at h
  split_ifs at h with hsub hsub hsub hsub hsub hsub <;> cases h <;> rw [hsub] at hfield <;>
    exact ⟨rfl, rfl, hfield.trans beq_iff_eq.symm⟩

theorem decodeShift_readsAs {c : SubcodeMap} {m : Mode} {f : Field} {i : Instr} (h : decodeShift c m f = .ok i) :
    ReadsAs c .shift m f i := by
  have hfield := setWidth_low_iff (n := 2) (k := 11) rfl f
  simp only [decodeShift] at h
  split_ifs at h with hsub hsub hsub hsub <;> cases h <;> rw [hsub] at hfield <;>
    exact ⟨rfl, rfl, hfield.trans beq_iff_eq.symm⟩

theorem decodeShiftPair_readsAs {c : SubcodeMap} {m : Mode} {f : Field} {i : Instr}
    (h : decodeShiftPair c m f = .ok i) : ReadsAs c .shiftPair m f i := by
  have hfield := setWidth_low_iff (n := 1) (k := 12) rfl f
  simp only [decodeShiftPair] at h
  split_ifs at h with hsub hsub <;> cases h <;> rw [hsub] at hfield <;>
    exact ⟨rfl, rfl, hfield.trans beq_iff_eq.symm⟩

theorem decodeIo_readsAs {c : SubcodeMap} {m : Mode} {f : Field} {i : Instr} (h : decodeIo c m f = .ok i) :
    ReadsAs c .io m f i := by
  have hfield := setWidth_low_iff (n := 1) (k := 12) rfl f
  simp only [decodeIo] at h
  split_ifs at h with hsub hsub <;> cases h <;> rw [hsub] at hfield <;>
    exact ⟨rfl, rfl, hfield.trans beq_iff_eq.symm⟩

theorem decodeGroup_readsAs {c : SubcodeMap} {g : Group} {w : Word} {i : Instr} (h : decodeGroup c g w = .ok i) :
    ReadsAs c g (modeField w) (low13 w) i := by
  cases g with
  | stack => exact decodeStack_readsAs h
  | incDec => exact decodeIncDec_readsAs h
  | shift => exact decodeShift_readsAs h
  | shiftPair => exact decodeShiftPair_readsAs h
  | io => exact decodeIo_readsAs h
  | nop | cma | ret | hlt =>
    cases h
    exact ⟨rfl, rfl, eq_comm.trans beq_iff_eq.symm⟩
  | _ =>
    cases h
    exact ⟨rfl, rfl, iff_of_true rfl rfl⟩

theorem decode_readsAs {c : Config} {w : Word} {i : Instr} (h : decode c w = .ok i) :
    ∃ g, c.opc.get g = opcodeField w ∧ ReadsAs c.sub g (modeField w) (low13 w) i := by
  unfold decode at h
  split at h
  · exact ⟨_, OpcodeMap.get_of_group? ‹_›, decodeGroup_readsAs h⟩
  · cases h

/-- Settles O2: the word is its three fields, of which the encoder may write only the operand field otherwise. -/
theorem encodeOfDecodeIsTheWordIffIgnoredBitsAreZero :
    Obligations.EncodeOfDecodeIsTheWordIffIgnoredBitsAreZero := by
  intro c w i h
  obtain ⟨g, hop, rfl, hmode, hfield⟩ := decode_readsAs h
  calc encode c i = w
      ↔ packWord (opcodeField w) (modeField w) (encodedField c.sub i)
          = packWord (opcodeField w) (modeField w) (low13 w) := by
        rw [encode_eq_packWord, hop, hmode, packWord_of_fields]
    _ ↔ encodedField c.sub i = low13 w := packWord_left_cancel
    _ ↔ i.wf = true := hfield

/-! Decoding what the encoder wrote. -/

/-- `SUBCODE` is injective in each family, the pairs written out (R65). -/
theorem SubcodeMap.injective_iff {c : SubcodeMap} :
    c.injective = true ↔
      c.psh ≠ c.pop ∧ [c.ina, c.inx, c.ini, c.dca, c.dcx, c.dci].Nodup ∧
        [c.shal, c.shar, c.shxl, c.shxr].Nodup ∧ c.saxl ≠ c.saxr ∧ c.inp ≠ c.out := by
  simp [SubcodeMap.injective, and_assoc]

/-- Injectivity is what lets the decoder pass by the members it tries first. -/
theorem decodeGroup_of_fields {c : SubcodeMap} (hc : c.injective = true) {w : Word} {i : Instr} (hwf : i.wf = true)
    (hmode : modeField w = i.mode) (hfield : low13 w = encodedField c i) :
    decodeGroup c i.mnemonic.group w = .ok i := by
  obtain ⟨hstack, hincDec, hshift, hpair, hio⟩ := SubcodeMap.injective_iff.mp hc
  cases i with
  | psh m g | pop m g =>
    cases beq_iff_eq.mp hwf
    have hf : low13 w = atBit c.stackBit _ := hfield
    change decodeStack c (modeField w) (low13 w) = _
    rw [hmode, hf]
    simp [decodeStack, Instr.mode, extract_atBit, withoutBit_atBit, hstack.symm]
  | ina m g | inx m g | ini m g | dca m g | dcx m g | dci m g =>
    cases beq_iff_eq.mp hwf
    have hf : low13 w = BitVec.setWidth 13 (_ : BitVec 3) := hfield
    change decodeIncDec c (modeField w) (low13 w) = _
    rw [hmode, hf]
    simp [decodeIncDec, Instr.mode, extract_above_setWidth] <;> grind
  | shal m g | shar m g | shxl m g | shxr m g =>
    cases beq_iff_eq.mp hwf
    have hf : low13 w = BitVec.setWidth 13 (_ : BitVec 2) := hfield
    change decodeShift c (modeField w) (low13 w) = _
    rw [hmode, hf]
    simp [decodeShift, Instr.mode, extract_above_setWidth] <;> grind
  | saxl m g | saxr m g =>
    cases beq_iff_eq.mp hwf
    have hf : low13 w = BitVec.setWidth 13 (_ : BitVec 1) := hfield
    change decodeShiftPair c (modeField w) (low13 w) = _
    rw [hmode, hf]
    simp [decodeShiftPair, Instr.mode, extract_above_setWidth, hpair.symm]
  | inp m g | out m g =>
    cases beq_iff_eq.mp hwf
    have hf : low13 w = BitVec.setWidth 13 (_ : BitVec 1) := hfield
    change decodeIo c (modeField w) (low13 w) = _
    rw [hmode, hf]
    simp [decodeIo, Instr.mode, extract_above_setWidth, hio.symm]
  | nop m g | cma m g | ret m g | hlt m g =>
    cases beq_iff_eq.mp hwf
    simp only [Instr.mnemonic, Mnemonic.group, decodeGroup, hmode, hfield]
    rfl
  | _ =>
    simp only [Instr.mnemonic, Mnemonic.group, decodeGroup, hmode, hfield]
    rfl

/-- Settles O1: the fields of the encoded word are the instruction's, and its opcode number names its group. -/
theorem decodeOfEncodeIsTheInstruction : Obligations.DecodeOfEncodeIsTheInstruction := by
  intro c i hc hi
  obtain ⟨hopc, hsub⟩ := Bool.and_eq_true_iff.mp hc
  obtain ⟨hop, hmode, hfield⟩ := encode_fields i c
  simp only [decode, hop, OpcodeMap.group?_get hopc]
  exact decodeGroup_of_fields hsub hi hmode hfield

/-! What the decoder rejects (R66, R69). -/

theorem toNat_opcodeField (w : Word) : (opcodeField w).toNat = w.toNat / 2 ^ 15 := by
  have hw := w.isLt
  rw [opcodeField, BitVec.extractLsb'_toNat, Nat.shiftRight_eq_div_pow]
  omega

theorem toNat_low3 (w : Word) : ((low13 w).setWidth 3).toNat = w.toNat % 8 := by
  simp only [low13, BitVec.toNat_setWidth]
  omega

theorem decodeGroup_ne_invalidOpcode (c : SubcodeMap) (g : Group) (w : Word) (op : BitVec 5) :
    decodeGroup c g w ≠ .invalidOpcode op := by
  cases g with
  | stack => simp only [decodeGroup, decodeStack]; split_ifs <;> simp
  | incDec => simp only [decodeGroup, decodeIncDec]; split_ifs <;> simp
  | shift => simp only [decodeGroup, decodeShift]; split_ifs <;> simp
  | shiftPair => simp only [decodeGroup, decodeShiftPair]; split_ifs <;> simp
  | io => simp only [decodeGroup, decodeIo]; split_ifs <;> simp
  | _ => simp [decodeGroup]

theorem decode_eq_invalidOpcode_iff {c : Config} {w : Word} {op : BitVec 5} :
    decode c w = .invalidOpcode op ↔ op = opcodeField w ∧ ∀ g, c.opc.get g ≠ op := by
  unfold decode
  cases h : c.opc.group? (opcodeField w) with
  | none =>
    simp only [Decoded.invalidOpcode.injEq]
    exact ⟨fun hop => ⟨hop.symm, hop ▸ OpcodeMap.group?_eq_none_iff.mp h⟩, fun hop => hop.1.symm⟩
  | some g =>
    refine iff_of_false (decodeGroup_ne_invalidOpcode _ _ _ _) ?_
    rintro ⟨rfl, hop⟩
    exact hop g (OpcodeMap.get_of_group? h)

/-- Two sub-codes of one bit leave none over. -/
theorem eq_or_eq_of_ne_bit {a b : BitVec 1} (h : a ≠ b) (v : BitVec 1) : v = a ∨ v = b := by
  bv_omega

/-- Four sub-codes of two bits leave none over. -/
theorem mem_of_nodup_two_bits {a b c d : BitVec 2} (h : [a, b, c, d].Nodup) (v : BitVec 2) :
    v = a ∨ v = b ∨ v = c ∨ v = d := by
  simp only [List.nodup_cons, List.mem_cons, List.not_mem_nil, or_false, not_or] at h
  bv_omega

/-- Under an injective `SUBCODE` only the increment/decrement family has sub-codes of no member (R66). -/
theorem decodeGroup_eq_reserved_iff {c : SubcodeMap} (hc : c.injective = true) {g g' : Group} {w : Word}
    {sub : BitVec 3} :
    decodeGroup c g' w = .reservedSubcode g sub ↔
      g' = .incDec ∧ g = .incDec ∧ sub = (low13 w).setWidth 3 ∧
        sub ∉ [c.ina, c.inx, c.ini, c.dca, c.dcx, c.dci] := by
  obtain ⟨hstack, -, hshift, hpair, hio⟩ := SubcodeMap.injective_iff.mp hc
  cases g' with
  | incDec =>
    simp only [decodeGroup, decodeIncDec, List.mem_cons, List.not_mem_nil, or_false, not_or, true_and]
    constructor
    · intro h
      split_ifs at h with h1 h2 h3 h4 h5 h6
      cases h
      exact ⟨rfl, BitVec.setWidth_eq _, by simpa using ⟨h1, h2, h3, h4, h5, h6⟩⟩
    · rintro ⟨rfl, rfl, h1, h2, h3, h4, h5, h6⟩
      simp [h1, h2, h3, h4, h5, h6]
  | stack =>
    refine iff_of_false (fun h => ?_) (by simp)
    simp only [decodeGroup, decodeStack] at h
    split_ifs at h with h1 h2
    exact (eq_or_eq_of_ne_bit hstack _).elim h1 h2
  | shift =>
    refine iff_of_false (fun h => ?_) (by simp)
    simp only [decodeGroup, decodeShift] at h
    split_ifs at h with h1 h2 h3 h4
    exact (mem_of_nodup_two_bits hshift _).elim h1 (·.elim h2 (·.elim h3 h4))
  | shiftPair =>
    refine iff_of_false (fun h => ?_) (by simp)
    simp only [decodeGroup, decodeShiftPair] at h
    split_ifs at h with h1 h2
    exact (eq_or_eq_of_ne_bit hpair _).elim h1 h2
  | io =>
    refine iff_of_false (fun h => ?_) (by simp)
    simp only [decodeGroup, decodeIo] at h
    split_ifs at h with h1 h2
    exact (eq_or_eq_of_ne_bit hio _).elim h1 h2
  | _ => simp [decodeGroup]

theorem decode_eq_reserved_iff {c : Config} (hc : c.wf = true) {g : Group} {w : Word} {sub : BitVec 3} :
    decode c w = .reservedSubcode g sub ↔
      g = .incDec ∧ opcodeField w = c.opc.get .incDec ∧ sub = (low13 w).setWidth 3 ∧
        sub ∉ [c.sub.ina, c.sub.inx, c.sub.ini, c.sub.dca, c.sub.dcx, c.sub.dci] := by
  obtain ⟨hopc, hsub⟩ := Bool.and_eq_true_iff.mp hc
  unfold decode
  constructor
  · intro h
    split at h
    · rename_i g' hg'
      obtain ⟨rfl, hg, hrest⟩ := (decodeGroup_eq_reserved_iff hsub).mp h
      exact ⟨hg, (OpcodeMap.get_of_group? hg').symm, hrest⟩
    · cases h
  · rintro ⟨hg, hop, hrest⟩
    rw [hop, OpcodeMap.group?_get hopc]
    exact (decodeGroup_eq_reserved_iff hsub).mpr ⟨rfl, hg, hrest⟩

/-- Settles O5: the two rejections of `decode`, their fields as numbers. -/
theorem decoderRejectsExactlyTheWordsOfNoInstruction :
    Obligations.DecoderRejectsExactlyTheWordsOfNoInstruction := by
  intro c w
  constructor
  · intro op
    rw [decode_eq_invalidOpcode_iff, ← BitVec.toNat_inj, toNat_opcodeField]
  · intro g sub hc
    rw [decode_eq_reserved_iff hc, ← BitVec.toNat_inj, toNat_opcodeField, ← toNat_low3,
      ← BitVec.toNat_inj (x := sub)]
    rfl

/-- Settles O4: 31 distinct numbers of the 32 leave a complement of one. -/
theorem exactlyOneOpcodeIsUnassigned : Obligations.ExactlyOneOpcodeIsUnassigned := by
  intro o ho
  have hnodup : o.values.Nodup := of_decide_eq_true ho
  have hcard : (o.values.toFinsetᶜ).card = 1 := by
    rw [Finset.card_compl, List.toFinset_card_of_nodup hnodup]
    rfl
  obtain ⟨op, hop⟩ := Finset.card_eq_one.mp hcard
  have hmem : ∀ v, (∀ g, o.get g ≠ v) ↔ v = op := by
    intro v
    rw [← Finset.mem_singleton, ← hop]
    simp [OpcodeMap.values_eq_map_get, Group.mem_all]
  exact ⟨op, (hmem op).mpr rfl, fun v hv => (hmem v).mp hv⟩

/-- Settles O3: the decoder run on each word. -/
theorem specWordsDecodeToTheirInstructions : Obligations.SpecWordsDecodeToTheirInstructions := by
  unfold Obligations.SpecWordsDecodeToTheirInstructions
  decide

end Sys2Proof.Proofs
end

section
/-! The rest of the EXECUTE phases (41_data_transfer.md R141, 43_arithmetic_logic.md R170, 44_control_transfer.md,
45_shift.md, 46_io.md): what each remaining arm of `exec` comes to, then each statement as a use of the shared
operations. -/

namespace Sys2Proof.Proofs

open Sys2Proof.Machine Sys2Proof.Claims

/-- The word a `JSR` stores (44_control_transfer.md R198): a draw of seven bits above the return address. -/
def returnWord (s : State) : Word := Config.jsrHigh s.draws ++ s.pc.setWidth 13

section Arms
variable (m : Mode) (v : Field) (s : State)

theorem exec_ssp : exec (.ssp m v) s = memWrite s.ar ((s.sp.setWidth 13).setWidth 20) s endExecute := rfl

theorem exec_sub :
    exec (.sub m v) s =
      loadBR s fun t =>
        endExecute (addToA (subComplement t.cfg.subMode t.br)
          { t with br := subComplement t.cfg.subMode t.br, a := t.a + 1 }) := rfl

theorem exec_jpn : exec (.jpn m v) s = jumpIf s.flagS s := rfl

theorem exec_jag : exec (.jag m v) s = jumpIf (!s.flagS && !s.flagZ) s := rfl

theorem exec_jpz : exec (.jpz m v) s = jumpIf s.flagZ s := rfl

theorem exec_jpo :
    exec (.jpo m v) s = endExecute (if s.flagV then jumpBR { s with flagV := false } else s) := rfl

theorem exec_jig :
    exec (.jig m v) s = jumpIf ((s.i &&& s.cfg.jigMask) != 0 && !s.i.msb) s := rfl

theorem exec_jsr :
    exec (.jsr m v) s =
      memWrite (s.sp + 1) (returnWord s) { s with sp := s.sp + 1, br := returnWord s, draws := s.draws + 1 }
        fun t => endExecute { t with pc := addrOfField v } := rfl

theorem exec_ret (g : BitVec 13) :
    exec (.ret m g) s =
      memRead s.sp s fun w => .next (decSP { s with pc := addrOfWord w, f := .fetch, sc := 0 }) := rfl

theorem exec_shal (g : BitVec 11) : exec (.shal m g) s = endExecute { s with a := s.a <<< 1 } := rfl

theorem exec_shar (g : BitVec 11) : exec (.shar m g) s = endExecute { s with a := s.a >>> 1 } := rfl

theorem exec_shxl (g : BitVec 11) : exec (.shxl m g) s = endExecute { s with x := s.x <<< 1 } := rfl

theorem exec_shxr (g : BitVec 11) : exec (.shxr m g) s = endExecute { s with x := s.x >>> 1 } := rfl

theorem exec_saxl (g : BitVec 12) : exec (.saxl m g) s = endExecute (splitAX (pairAX s <<< 1) s) := rfl

theorem exec_saxr (g : BitVec 12) : exec (.saxr m g) s = endExecute (splitAX (pairAX s >>> 1) s) := rfl

theorem exec_inp (g : BitVec 12) : exec (.inp m g) s = execInp s := rfl

end Arms

theorem execInp_of_nil {s : State} (h : s.input = []) :
    execInp s = .next (setStatus .waitingInput (freeSc s)) := by
  simp only [execInp, h]

theorem execInp_of_cons {s : State} {n : Nat} {rest : List Nat} (h : s.input = n :: rest) :
    execInp s = endExecute { s with status := .running, input := rest, a := BitVec.ofNat 20 n } := by
  simp only [execInp, h]

/-! Data transfer and stack. -/

/-- Settles O20, by whether `AR` is below `MEMLEN`. -/
theorem sspStoresTheMaskedStackPointer : Obligations.SspStoresTheMaskedStackPointer := by
  intro m a s
  have hword : (s.sp.setWidth 13 : Field).setWidth 20 = BitVec.ofNat 20 (s.sp.toNat % 8192) := by
    rw [← BitVec.toNat_inj]
    simp only [BitVec.toNat_setWidth, BitVec.toNat_ofNat]
  rw [exec_ssp, hword]
  exact ⟨fun hm hv => storedAt_memWrite_endExecute _ hm hv, fun hv => raises_memWrite_invalid _ _ hv⟩

/-- `POP` and `RET` count back what `PSH` and `JSR` counted, also over the wrap from 0xFFFF. -/
theorem addr_add_one_sub_one (p : Addr) : p + 1 - 1 = p := BitVec.add_sub_cancel p 1

theorem exec_psh_valid (m : Mode) (g : BitVec 12) {s : State} (hv : (s.sp + 1).toNat < s.memLen) :
    exec (.psh m g) s =
      .next (ended { s with
        sp := s.sp + 1, br := s.a, ar := s.sp + 1, mem := s.mem.set (s.sp + 1).toNat s.a }) := by
  rw [exec_psh]
  refine (memWrite_valid ?_).trans (endExecute_eq_next_ended _)
  exact hv

theorem exec_pop_valid (m : Mode) (g : BitVec 12) {s : State} (hv : s.sp.toNat < s.memLen) :
    exec (.pop m g) s =
      .next (ended { s with
        ar := s.sp, br := s.mem.get s.sp.toNat, a := s.mem.get s.sp.toNat, sp := s.sp - 1 }) := by
  rw [exec_pop]
  exact loadBR_endExecute_valid _ hv

/-- Settles O23: the `POP` reads at the address the `PSH` wrote, where canonical memory gives the pushed word back. -/
theorem popAfterPshRestores : Obligations.PopAfterPshRestores := by
  intro m m' g g' s hm hv
  exact ⟨_, _, exec_psh_valid m g hv, exec_pop_valid m' g' hv, Memory.get_set_same hm _ _,
    addr_add_one_sub_one _, fun _ hl => Memory.get_set_other hl _⟩

/-! Arithmetic. -/

/-- Settles O27: unsigned cases of the signed sum. -/
theorem overflowFlagIsSignedOverflow : Obligations.OverflowFlagIsSignedOverflow := by
  intro a b
  rw [ovf_iff_toNat, BitVec.toInt_eq_toNat_cond, BitVec.toInt_eq_toNat_cond, BitVec.toNat_add]
  have ha := a.isLt
  have hb := b.isLt
  split <;> split <;> omega

theorem toNat_add_one (w : Word) : (w + 1).toNat = (w.toNat + 1) % 2 ^ 20 := BitVec.toNat_add w 1

/-- What `SUB` complements to, as a number (R170). -/
theorem toNat_subComplement (mode : SubMode) (w : Word) :
    (subComplement mode w).toNat =
      match mode with
      | .literal => (2 ^ 20 - w.toNat) % 2 ^ 20
      | .ones => 2 ^ 20 - 1 - w.toNat := by
  have hw := w.isLt
  cases mode with
  | literal =>
    simp only [subComplement, toNat_add_one, BitVec.toNat_not]
    omega
  | ones => rw [subComplement, BitVec.toNat_not]

/-- The final addition of `SUB` (R170): `A - w + 1` under `literal`, `A - w` under `ones`. -/
theorem toNat_add_one_add_subComplement (mode : SubMode) (a w : Word) :
    ((a + 1 + subComplement mode w).toNat : Int) =
      match mode with
      | .literal => ((a.toNat : Int) - w.toNat + 1) % 2 ^ 20
      | .ones => ((a.toNat : Int) - w.toNat) % 2 ^ 20 := by
  have hw := w.isLt
  have ha := a.isLt
  have hc := toNat_subComplement mode w
  rw [BitVec.toNat_add, toNat_add_one]
  cases mode <;> simp only at hc ⊢ <;> omega

/-- Settles O28, by whether `AR` is below `MEMLEN`; `b` is the complement and `r` the final addition. -/
theorem subFollowsItsMode : Obligations.SubFollowsItsMode := by
  rintro m v s w b r rfl hb hr
  have hcompl : subComplement s.cfg.subMode (s.mem.get s.ar.toNat) = b := by
    rw [← BitVec.toNat_inj, hb]
    exact toNat_subComplement _ _
  have hsum : s.a + 1 + b = r := by
    rw [← BitVec.toNat_inj, ← Int.natCast_inj, hr, ← hcompl]
    exact toNat_add_one_add_subComplement _ _ _
  rw [exec_sub, ← ovf_eq_decide_getLsbD]
  constructor
  · intro hv
    rw [loadBR_valid hv, endExecute_eq_next_ended]
    simp only [addToA, hcompl, hsum]
  · exact fun hv => raises_loadBR_invalid _ hv

/-! Control transfer. -/

theorem jumpIf_eq_next_ended {taken : Bool} {p : Prop} [Decidable p] (h : taken = true ↔ p) (s : State) :
    jumpIf taken s = .next (ended { s with pc := pcAfterJump p s }) := by
  rw [jumpIf, endExecute_eq_next_ended, jumpBR_eq_pc_mod, pcAfterJump]
  simp only [h]
  split <;> rfl

/-- Settles O32: each condition is that of the stored flags; a `JPO` not taken finds `V` clear. -/
theorem conditionalJumpsReadTheStoredFlags : Obligations.ConditionalJumpsReadTheStoredFlags := by
  intro m a s
  rw [exec_jpn, exec_jag, exec_jpz, exec_jpo]
  refine ⟨jumpIf_eq_next_ended Iff.rfl s, jumpIf_eq_next_ended (by simp) s, jumpIf_eq_next_ended Iff.rfl s, ?_⟩
  rw [endExecute_eq_next_ended, jumpBR_eq_pc_mod, pcAfterJump]
  cases hv : s.flagV
  · simp [ended, hv]
  · rfl

/-- A mask of the bits from `k` up leaves something of the numbers from `2 ^ k` up. -/
theorem and_high_mask_ne_zero_iff (i : Field) (k : Nat) :
    i &&& (BitVec.allOnes 13 <<< k) ≠ 0 ↔ 2 ^ k ≤ i.toNat := by
  have hle : i.toNat / 2 ^ k * 2 ^ k ≤ i.toNat := Nat.div_mul_le_self _ _
  rw [← BitVec.shiftLeft_ushiftRight, ← BitVec.toNat_ne_iff_ne, BitVec.toNat_shiftLeft, BitVec.toNat_ushiftRight,
    Nat.shiftLeft_eq, Nat.shiftRight_eq_div_pow, Nat.mod_eq_of_lt (Nat.lt_of_le_of_lt hle i.isLt)]
  simp

theorem getLsbD_12_eq_false_iff (i : Field) : i.getLsbD 12 = false ↔ i.toNat ≤ 4095 := by
  have hmsb : i.msb = i.getLsbD 12 := BitVec.msb_eq_getLsbD_last i
  rw [← hmsb, BitVec.msb_eq_decide, decide_eq_false_iff_not]
  omega

/-- Settles O33; the masks 0x1FF8 and 0x1FFF are those of the bits from 3 and from 0 up. -/
theorem jigTestsTheMaskedIndex : Obligations.JigTestsTheMaskedIndex := by
  intro m a s
  have htaken : ((s.i &&& s.cfg.jigMask) != 0 && !s.i.msb) = true ↔
      s.i &&& s.cfg.jigMask ≠ 0 ∧ s.i.getLsbD 12 = false := by
    simp [BitVec.msb_eq_getLsbD_last]
  rw [exec_jig]
  refine ⟨jumpIf_eq_next_ended htaken s, fun hmask => ?_, fun hmask => ?_⟩
  · refine jumpIf_eq_next_ended (htaken.trans (and_congr ?_ (getLsbD_12_eq_false_iff _))) s
    rw [hmask]
    exact and_high_mask_ne_zero_iff s.i 3
  · refine jumpIf_eq_next_ended (htaken.trans (and_congr ?_ (getLsbD_12_eq_false_iff _))) s
    rw [hmask]
    exact and_high_mask_ne_zero_iff s.i 0

/-- Whatever the draw, the low 13 bits of the stored word are those of `PC`. -/
theorem toNat_returnWord_mod (s : State) : (returnWord s).toNat % 8192 = s.pc.toNat % 8192 := by
  rw [returnWord, BitVec.toNat_append, ← Nat.shiftLeft_add_eq_or_of_lt (BitVec.isLt _), Nat.shiftLeft_eq,
    BitVec.toNat_setWidth]
  omega

theorem addrOfField_eq_ofNat (v : Field) : addrOfField v = BitVec.ofNat 16 v.toNat := by
  rw [addrOfField, BitVec.ofNat_toNat]

theorem exec_jsr_valid (m : Mode) (a : Field) {s : State} (hv : (s.sp + 1).toNat < s.memLen) :
    exec (.jsr m a) s =
      .next (ended { s with
        sp := s.sp + 1, br := returnWord s, pc := addrOfField a, draws := s.draws + 1
        mem := s.mem.set (s.sp + 1).toNat (returnWord s) }) := by
  rw [exec_jsr]
  refine (memWrite_valid ?_).trans (endExecute_eq_next_ended _)
  exact hv

/-- Settles O34, by whether the counted `SP` is below `MEMLEN`. -/
theorem jsrStoresTheReturnAddress : Obligations.JsrStoresTheReturnAddress := by
  intro m a s p hp
  obtain rfl := addr_add_one_eq_of_toNat hp
  constructor
  · intro hm hv
    rw [exec_jsr_valid m a hv, addrOfField_eq_ofNat]
    exact ⟨returnWord s, s.draws + 1, toNat_returnWord_mod s, _, rfl, rfl, Memory.get_set_same hm _ _,
      fun _ hl => Memory.get_set_other hl _⟩
  · intro hv
    rw [exec_jsr]
    exact ⟨returnWord s, toNat_returnWord_mod s, _, _, memWrite_invalid hv⟩

theorem exec_ret_valid (m : Mode) (g : BitVec 13) {s : State} (hv : s.sp.toNat < s.memLen) :
    exec (.ret m g) s =
      .next { s with
        pc := addrOfWord (s.mem.get s.sp.toNat), sp := s.sp - 1, f := .fetch, sc := 0 } := by
  rw [exec_ret]
  exact memRead_valid hv

/-- Settles O35, by whether `SP` is below `MEMLEN`. -/
theorem retReturnsWithoutFlagUpdate : Obligations.RetReturnsWithoutFlagUpdate := by
  intro m g s
  rw [← addrOfWord_eq_ofNat_mod, ← addr_sub_one_eq_ofInt]
  refine ⟨fun hv => exec_ret_valid m g hv, fun hv => ?_⟩
  rw [exec_ret, memRead_invalid hv]
  exact raises_raise _ _

/-- Settles O36: the `RET` reads at the address the `JSR` wrote, and of the word there only the low 13 bits. -/
theorem retAfterJsrGoesOnAfterTheCall : Obligations.RetAfterJsrGoesOnAfterTheCall := by
  intro m m' a g s hm hv
  refine ⟨_, _, exec_jsr_valid m a hv, ?_, exec_ret_valid m' g hv, ?_, addr_add_one_sub_one _, rfl⟩
  · exact BitVec.toNat_setWidth_of_le (by decide)
  · have hread : (s.mem.set (s.sp + 1).toNat (returnWord s)).get (s.sp + 1).toNat = returnWord s :=
      Memory.get_set_same hm _ _
    change (addrOfWord _).toNat = _
    rw [addrOfWord_eq_ofNat_mod]
    simp only [ended, hread, toNat_returnWord_mod, BitVec.toNat_ofNat]
    omega

/-- Settles O37: `HLT` is the drawn `SC`, `H` and the status. -/
theorem hltSetsHAndEndsTheRun : Obligations.HltSetsHAndEndsTheRun := fun _ _ _ => ⟨_, _, rfl⟩

/-! Shifts. -/

theorem word_shiftLeft_one (w : Word) : w <<< 1 = BitVec.ofNat 20 (2 * w.toNat) := by
  rw [← BitVec.toNat_inj, BitVec.toNat_shiftLeft, BitVec.toNat_ofNat, Nat.shiftLeft_eq, Nat.mul_comm]

theorem word_shiftRight_one (w : Word) : w >>> 1 = BitVec.ofNat 20 (w.toNat / 2) := by
  have hw := w.isLt
  rw [← BitVec.toNat_inj, BitVec.toNat_ushiftRight, BitVec.toNat_ofNat, Nat.shiftRight_eq_div_pow]
  omega

/-- Settles O38: a shift by one bit is a doubling or a halving. -/
theorem singleShiftsAreLogicalByOneBit : Obligations.SingleShiftsAreLogicalByOneBit := by
  intro m g s
  rw [exec_shal, exec_shar, exec_shxl, exec_shxr]
  simp only [word_shiftLeft_one, word_shiftRight_one]
  exact ⟨endExecute_eq_next_ended _, endExecute_eq_next_ended _, endExecute_eq_next_ended _,
    endExecute_eq_next_ended _⟩

theorem toNat_pairAX (s : State) : (pairAX s).toNat = s.a.toNat * 2 ^ 20 + s.x.toNat := by
  rw [pairAX, BitVec.toNat_append, ← Nat.shiftLeft_add_eq_or_of_lt s.x.isLt, Nat.shiftLeft_eq]

/-- The two halves of `splitAX` make up its 40 bits again. -/
theorem toNat_halves (t : BitVec 40) :
    (t.extractLsb' 20 20 : Word).toNat * 2 ^ 20 + (t.setWidth 20).toNat = t.toNat := by
  have ht := t.isLt
  rw [BitVec.extractLsb'_toNat, BitVec.toNat_setWidth, Nat.shiftRight_eq_div_pow]
  omega

/-- Settles O39: the shift is that of the 40-bit number, whose halves `A` and `X` become. -/
theorem combinedShiftsShiftThePair : Obligations.CombinedShiftsShiftThePair := by
  intro m g s
  constructor
  · refine ⟨_, _, ?_, (exec_saxl m s g).trans (endExecute_eq_next_ended _)⟩
    rw [toNat_halves, BitVec.toNat_shiftLeft, toNat_pairAX, Nat.shiftLeft_eq, Nat.mul_comm 2]
  · refine ⟨_, _, ?_, (exec_saxr m s g).trans (endExecute_eq_next_ended _)⟩
    rw [toNat_halves, BitVec.toNat_ushiftRight, toNat_pairAX, Nat.shiftRight_eq_div_pow]

/-! Input. -/

theorem word_ofNat_mod (n : Nat) : BitVec.ofNat 20 (n % 2 ^ 20) = (BitVec.ofNat 20 n : Word) := by
  rw [← BitVec.toNat_inj, BitVec.toNat_ofNat, BitVec.toNat_ofNat, Nat.mod_mod]

/-- Settles O40, by whether the host's input holds a value. -/
theorem inpTakesTheNextInputOrWaits : Obligations.InpTakesTheNextInputOrWaits := by
  intro m g s
  rw [exec_inp]
  constructor
  · intro v rest hin
    rw [execInp_of_cons hin, word_ofNat_mod]
    exact endExecute_eq_next_ended _
  · intro hin
    rw [execInp_of_nil hin]
    exact ⟨_, _, rfl⟩

/-- Settles O41: the waiting core resumes its `INP` with the value the host calls with. -/
theorem waitingCoreKeepsItsStateUntilInput : Obligations.WaitingCoreKeepsItsStateUntilInput := by
  intro s hs
  constructor
  · intro hin
    simp only [step, advance, hs, resumeInput, hin]
  · intro v hin
    simp only [hostCall, hs, if_true]
    rw [execInp_of_cons rfl, endExecute_eq_next_ended, word_ofNat_mod]

end Sys2Proof.Proofs
end

section
/-! What an instruction that goes on can have done (10_state.md, 20_memory.md R45, 40_instruction_cycle.md R109): the
five ways EXECUTE ends, and with each the transfers that came before. -/

namespace Sys2Proof.Proofs

open Sys2Proof.Machine Sys2Proof.Claims

/-- What the transfers of an instruction with the mnemonic `m` that lead from `s` to `u` leave alone, and what they can
change. A field a proof does not give is one that is as before. -/
structure Transfers (m : Mnemonic) (s u : State) : Prop where
  cfg : u.cfg = s.cfg := by rfl
  memLen : u.memLen = s.memLen := by rfl
  ir : u.ir = s.ir := by rfl
  clock : u.clock = s.clock := by rfl
  pc : u.pc = s.pc ∨ ∃ v, u.pc = addrOfField v := by exact .inl rfl
  output : u.output = s.output ∨ (u.output = s.output ++ [u.a] ∧ m = .out) := by exact .inl rfl
  a : u.a ≠ s.a → m ∈ [.lda, .ena, .pop, .ina, .dca, .ada, .sub, .and, .ora, .xor, .cma, .shal, .shar,
    .saxl, .saxr, .inp] := by exact absurd rfl
  x : u.x ≠ s.x → m ∈ [.ldx, .inx, .dcx, .shxl, .shxr, .saxl, .saxr] := by exact absurd rfl
  i : u.i ≠ s.i → m ∈ [.ldi, .eni, .ini, .dci] := by exact absurd rfl
  sp : u.sp ≠ s.sp → m ∈ [.lsp, .psh, .jsr, .pop, .ret] := by exact absurd rfl
  flagV : u.flagV ≠ s.flagV → m ∈ [.ada, .sub, .ina, .dca, .jpo] := by exact absurd rfl
  mem : u.mem = s.mem ∨
    (m ∈ [.sta, .stx, .sti, .ssp] ∧ u.ar = s.ar ∧ s.ar.toNat < s.memLen ∧
      ∃ w, u.mem = s.mem.set s.ar.toNat w) ∨
    (m ∈ [.psh, .jsr] ∧ u.sp = s.sp + 1 ∧ (s.sp + 1).toNat < s.memLen ∧
      ∃ w, u.mem = s.mem.set (s.sp + 1).toNat w) := by exact .inl rfl

/-- `H`, `Z`, `S` and the register that the last two describe are as before. -/
def KeepsAHZS (s u : State) : Prop := u.a = s.a ∧ u.flagH = s.flagH ∧ u.flagZ = s.flagZ ∧ u.flagS = s.flagS

/-- The ways the EXECUTE phase of an instruction with the mnemonic `m` can go on, each after its transfers. -/
inductive Executes (m : Mnemonic) (s : State) : State → Prop
  /-- `F <- FETCH` and the flag-update step (R109, R112). -/
  | ends (u : State) (h : Transfers m s u) (hH : u.flagH = s.flagH)
      (hstatus : u.status = if m = .inp then .running else s.status) :
      Executes m s (flagUpdate { u with f := .fetch })
  /-- A failing access, before `A` is written (60_exceptions.md R231, R233). -/
  | faults (e : RuntimeError) (u : State) (h : Transfers m s u) (hflags : KeepsAHZS s u) :
      Executes m s (setStatus (.faulted e) (freeSc u))
  /-- `RET`, without the flag-update step (44_control_transfer.md R202). -/
  | returns (u : State) (h : Transfers m s u) (hflags : KeepsAHZS s u) (hm : m = .ret) (hf : u.f = .fetch)
      (hstatus : u.status = s.status) : Executes m s u
  /-- `HLT` (44_control_transfer.md R204). -/
  | halts (hm : m = .hlt) : Executes m s (setStatus .halted (freeSc { s with flagH := true }))
  /-- An `INP` without input (46_io.md R221). -/
  | waits (hm : m = .inp) : Executes m s (setStatus .waitingInput (freeSc s))

/-- The outcome is a next state, in one of these ways. -/
def GoesOn (m : Mnemonic) (s : State) (o : Out) : Prop := ∃ t, o = .next t ∧ Executes m s t

theorem goesOn_endExecute {m : Mnemonic} {s : State} (u : State) (h : Transfers m s u)
    (hstatus : u.status = if m = .inp then .running else s.status) (hH : u.flagH = s.flagH := by rfl) :
    GoesOn m s (endExecute u) :=
  ⟨_, rfl, .ends u h hH hstatus⟩

theorem goesOn_memRead {m : Mnemonic} {s u : State} {addr : Addr} {k : Word → Out} (h : Transfers m s u)
    (hk : ∀ w, GoesOn m s (k w)) (hflags : KeepsAHZS s u := by exact ⟨rfl, rfl, rfl, rfl⟩) :
    GoesOn m s (memRead addr u k) := by
  rcases Nat.lt_or_ge addr.toNat u.memLen with hv | hv
  · rw [memRead_valid hv]
    exact hk _
  · rw [memRead_invalid hv]
    exact ⟨_, rfl, .faults _ u h hflags⟩

theorem goesOn_memWrite {m : Mnemonic} {s u : State} {addr : Addr} {v : Word} {k : State → Out}
    (h : Transfers m s u)
    (hk : addr.toNat < u.memLen → GoesOn m s (k { u with mem := u.mem.set addr.toNat v }))
    (hflags : KeepsAHZS s u := by exact ⟨rfl, rfl, rfl, rfl⟩) : GoesOn m s (memWrite addr v u k) := by
  rcases Nat.lt_or_ge addr.toNat u.memLen with hv | hv
  · rw [memWrite_valid hv]
    exact hk hv
  · rw [memWrite_invalid hv]
    exact ⟨_, rfl, .faults _ u h hflags⟩

theorem goesOn_jumpIf {m : Mnemonic} {s : State} (taken : Bool) (hm : m ≠ .inp) :
    GoesOn m s (jumpIf taken s) := by
  cases taken with
  | false => exact goesOn_endExecute s {} (if_neg hm).symm
  | true => exact goesOn_endExecute (jumpBR s) { pc := .inr ⟨_, rfl⟩ } (if_neg hm).symm

theorem goesOn_addToA {m : Mnemonic} {s : State} (b : Word) (hm : m ∈ [.ina, .dca]) :
    GoesOn m s (endExecute (addToA b s)) := by
  obtain rfl | rfl : m = .ina ∨ m = .dca := by simpa using hm
  all_goals exact goesOn_endExecute (addToA b s) { a := fun _ => by decide, flagV := fun _ => by decide } rfl

theorem exec_goesOn (i : Instr) (s : State) : GoesOn i.mnemonic s (exec i s) := by
  cases i with
  | sta | stx | sti | ssp =>
    exact goesOn_memWrite {} fun hv =>
      goesOn_endExecute _ { mem := .inr (.inl ⟨by simp [Instr.mnemonic], rfl, hv, _, rfl⟩) } rfl
  | psh =>
    exact goesOn_memWrite { sp := fun _ => by simp [Instr.mnemonic] } fun hv =>
      goesOn_endExecute _
        { sp := fun _ => by simp [Instr.mnemonic]
          mem := .inr (.inr ⟨by simp [Instr.mnemonic], rfl, hv, _, rfl⟩) } rfl
  | jsr =>
    rw [exec_jsr]
    exact goesOn_memWrite { sp := fun _ => by simp [Instr.mnemonic] } fun hv =>
      goesOn_endExecute _
        { pc := .inr ⟨_, rfl⟩, sp := fun _ => by simp [Instr.mnemonic]
          mem := .inr (.inr ⟨by simp [Instr.mnemonic], rfl, hv, _, rfl⟩) } rfl
  | lda | and | ora | xor =>
    exact goesOn_memRead {} fun _ =>
      goesOn_endExecute _ { a := fun _ => by simp [Instr.mnemonic] } rfl
  | ada | sub =>
    exact goesOn_memRead {} fun _ =>
      goesOn_endExecute _
        { a := fun _ => by simp [Instr.mnemonic], flagV := fun _ => by simp [Instr.mnemonic] } rfl
  | ldx =>
    exact goesOn_memRead {} fun _ =>
      goesOn_endExecute _ { x := fun _ => by simp [Instr.mnemonic] } rfl
  | ldi =>
    exact goesOn_memRead {} fun _ =>
      goesOn_endExecute _ { i := fun _ => by simp [Instr.mnemonic] } rfl
  | lsp =>
    exact goesOn_memRead {} fun _ =>
      goesOn_endExecute _ { sp := fun _ => by simp [Instr.mnemonic] } rfl
  | pop =>
    rw [exec_pop]
    exact goesOn_memRead {} fun _ =>
      goesOn_endExecute _
        { a := fun _ => by simp [Instr.mnemonic], sp := fun _ => by simp [Instr.mnemonic] } rfl
  | ret =>
    rw [exec_ret]
    exact goesOn_memRead {} fun _ =>
      ⟨_, rfl, .returns _ { pc := .inr ⟨_, rfl⟩, sp := fun _ => by simp [Instr.mnemonic] }
        ⟨rfl, rfl, rfl, rfl⟩ rfl rfl rfl⟩
  | hlt => exact ⟨_, rfl, .halts rfl⟩
  | inp =>
    rw [exec_inp]
    cases hin : s.input with
    | nil =>
      rw [execInp_of_nil hin]
      exact ⟨_, rfl, .waits rfl⟩
    | cons v rest =>
      rw [execInp_of_cons hin]
      exact goesOn_endExecute _ { a := fun _ => by simp [Instr.mnemonic] } rfl
  | out => exact goesOn_endExecute _ { output := .inr ⟨rfl, rfl⟩ } rfl
  | jpn | jag | jpz | jig => exact goesOn_jumpIf _ (by simp [Instr.mnemonic])
  | jpo =>
    rw [exec_jpo]
    split
    · exact goesOn_endExecute _ { pc := .inr ⟨_, rfl⟩, flagV := fun _ => by simp [Instr.mnemonic] } rfl
    · exact goesOn_endExecute _ {} rfl
  | jmp => exact goesOn_endExecute _ { pc := .inr ⟨_, rfl⟩ } rfl
  | nop => exact goesOn_endExecute _ {} rfl
  | ena | cma | shal | shar => exact goesOn_endExecute _ { a := fun _ => by simp [Instr.mnemonic] } rfl
  | eni | ini | dci => exact goesOn_endExecute _ { i := fun _ => by simp [Instr.mnemonic] } rfl
  | inx | dcx | shxl | shxr => exact goesOn_endExecute _ { x := fun _ => by simp [Instr.mnemonic] } rfl
  | ina =>
    rw [exec_ina]
    exact goesOn_addToA _ (by simp [Instr.mnemonic])
  | dca =>
    rw [exec_dca]
    exact goesOn_addToA _ (by simp [Instr.mnemonic])
  | saxl | saxr =>
    exact goesOn_endExecute _
      { a := fun _ => by simp [Instr.mnemonic], x := fun _ => by simp [Instr.mnemonic] } rfl

theorem exec_executes {i : Instr} {s t : State} (h : exec i s = .next t) : Executes i.mnemonic s t := by
  obtain ⟨u, hu, hex⟩ := exec_goesOn i s
  cases h.symm.trans hu
  exact hex

/-! What is true of all five ways. -/

section Ways
variable {m : Mnemonic} {s t : State} (h : Executes m s t)
include h

theorem Executes.transfers : Transfers m s t := by
  cases h with
  | ends u hu => exact { hu with }
  | faults e u hu => exact { hu with }
  | returns u hu => exact hu
  | halts => exact {}
  | waits => exact {}

theorem Executes.midInstruction : t.midInstruction = false := by
  cases h with
  | ends => simp [State.midInstruction]
  | returns _ _ _ _ hf => simp [State.midInstruction, hf]
  | faults | halts | waits => rfl

theorem Executes.flagsDescribeA (hs : s.flagsDescribeA = true) : t.flagsDescribeA = true := by
  cases h with
  | ends => simp [State.flagsDescribeA]
  | faults _ _ _ hflags | returns _ _ hflags =>
    obtain ⟨ha, -, hZ, hS⟩ := hflags
    simpa [State.flagsDescribeA, ha, hZ, hS] using hs
  | halts | waits => exact hs

/-- In EXECUTE the core runs, or waits in an `INP`. -/
theorem Executes.phaseAgrees (hf : s.f = .execute) (hs : s.status = .running ∨ m = .inp) :
    t.phaseAgrees = true := by
  cases h with
  | ends u _ _ hstatus =>
    have hrun : u.status = .running := by rcases hs with hs | hs <;> simp [hstatus, hs]
    simp [State.phaseAgrees, hrun]
  | returns _ _ _ hm hft hstatus =>
    have hrun : s.status = .running := by simpa [hm] using hs
    simp [State.phaseAgrees, hstatus, hrun, hft]
  | faults | halts => rfl
  | waits => simp [State.phaseAgrees, hf]

theorem Executes.haltAgrees (hH : s.flagH = false) (hs : s.status = .running ∨ m = .inp) :
    t.haltAgrees = true ∧ (t.flagH = true → m = .hlt) := by
  cases h with
  | ends u _ hHu hstatus =>
    have hrun : u.status = .running := by rcases hs with hs | hs <;> simp [hstatus, hs]
    simp [State.haltAgrees, hrun, hHu, hH]
  | returns _ _ hflags hm _ hstatus =>
    have hrun : s.status = .running := by simpa [hm] using hs
    obtain ⟨-, hHt, -, -⟩ := hflags
    simp [State.haltAgrees, hstatus, hrun, hHt, hH]
  | faults _ _ _ hflags =>
    obtain ⟨-, hHt, -, -⟩ := hflags
    simp [State.haltAgrees, hHt, hH]
  | halts hm => exact ⟨rfl, fun _ => hm⟩
  | waits => simp [State.haltAgrees, hH]

end Ways

end Sys2Proof.Proofs
end

section
/-! The run from a FETCH to EXECUTE (40_instruction_cycle.md R101 to R110, R114; 60_exceptions.md R233, R243): one
iteration by whether the host's request is there, then the phases in turn. -/

namespace Sys2Proof.Proofs

open Sys2Proof.Machine Sys2Proof.Claims

/-! One iteration. -/

theorem iterate_of_found {s : State} (h : s.interruptIn = some 0) : iterate s = .next (setStatus .stopped s) := by
  simp only [iterate, h]

theorem iterate_of_pending {s : State} {k : Nat} (h : s.interruptIn = some (k + 1)) :
    iterate s = phase (tick { s with interruptIn := some k }) := by
  simp only [iterate, h]

theorem iterate_of_none {s : State} (h : s.interruptIn = none) : iterate s = phase (tick s) := by
  simp only [iterate, h]

/-- Settles O9: the three values of the request. -/
theorem iterationCountsClockUnlessInterrupted : Obligations.IterationCountsClockUnlessInterrupted :=
  fun _ => ⟨iterate_of_found, iterate_of_none, fun _ => iterate_of_pending⟩

theorem iterations_succ_of_mid {n : Nat} {s t : State} (h : iterate s = .next t) (hmid : t.midInstruction = true) :
    iterations (n + 1) s = iterations n t := by
  simp only [iterations, h, hmid, if_true]

theorem iterations_succ_of_end {n : Nat} {s : State} (h : ∀ t, iterate s = .next t → t.midInstruction = false) :
    iterations (n + 1) s = iterate s := by
  cases hs : iterate s with
  | next t => simp [iterations, hs, h t hs]
  | fault r => simp only [iterations, hs]
  | refused r => simp only [iterations, hs]

/-- An iteration that takes a runtime error is the run's last. -/
theorem iterations_succ_of_raise {n : Nat} {s t : State} {e : RuntimeError} (h : iterate s = raise e t) :
    iterations (n + 1) s = raise e t := by
  rw [iterations_succ_of_end, h]
  intro u hu
  rw [h] at hu
  rw [raise_next hu]
  rfl

theorem step_of_running {s : State} (h : s.status = .running) : step s = iterations 4 s := by
  simp only [step, advance, h, instruction]

/-! The INDEXED phase. -/

theorem phase_of_indexed {s : State} (hf : s.f = .indexed) : phase s = indexedPhase s := by
  simp [phase, hf]

theorem phase_of_execute {s : State} (hf : s.f = .execute) : phase s = executePhase s := by
  simp [phase, hf]

/-- The sum of two 13-bit values stays below 2^14, so the 16-bit address holds it unreduced (R106). -/
theorem indexedAddr_eq_ofNat (w : Word) (i : Field) :
    indexedAddr w i = BitVec.ofNat 16 (w.toNat % 8192 + i.toNat) := by
  rw [indexedAddr, addrOfWord_eq_ofNat_mod, addrOfField_eq_ofNat, BitVec.ofNat_add]

theorem indexedPhase_eq (s : State) :
    indexedPhase s =
      .next (freeSc { s with
        ar := BitVec.ofNat 16 (s.ir.toNat % 8192 + s.i.toNat)
        f := if s.ir.getLsbD 14 then .indirect else .execute }) := by
  rw [indexedPhase, indexedAddr_eq_ofNat]
  rfl

/-- Settles O7: the sum is below 2^14. -/
theorem indexedAddsTheIndexUnreduced : Obligations.IndexedAddsTheIndexUnreduced := by
  intro s hf
  rw [phase_of_indexed hf, indexedPhase_eq]
  refine ⟨answersUpToSc_next_freeSc _, fun t ht => ?_⟩
  cases ht
  have hi := s.i.isLt
  exact Nat.mod_eq_of_lt (by omega)

/-! The phases in turn, with no request of the host. -/

/-- `s` after FETCH (R104, R105), `CLOCK` counted. -/
def fetched (s : State) : State :=
  { s with
    br := wordAtPc s, ir := wordAtPc s, pc := s.pc + 1
    ar := addrOfWord (wordAtPc s), f := phaseAfterFetch (wordAtPc s), clock := s.clock + 1 }

/-- `s` after FETCH and, if the word at `PC` is indexed, INDEXED (R104 to R106). -/
def addressed (s : State) : State :=
  { s with
    pc := s.pc + 1, ir := wordAtPc s, br := wordAtPc s, ar := BitVec.ofNat 16 (operandAddr s)
    f := if (wordAtPc s).getLsbD 14 then .indirect else .execute
    clock := s.clock + if (wordAtPc s).getLsbD 13 then 2 else 1 }

theorem iterate_of_fetch {s : State} (hf : s.f = .fetch) (hreq : s.interruptIn = none) (hv : s.pc.toNat < s.memLen) :
    iterate s = .next (freeSc (fetched s)) := by
  have hft : (tick s).f = .fetch := hf
  rw [iterate_of_none hreq, phase_of_fetch hft]
  exact fetchPhase_valid hv

theorem iterate_of_indexed {s : State} (hf : s.f = .indexed) (hreq : s.interruptIn = none) :
    iterate s = .next (freeSc { s with
      ar := BitVec.ofNat 16 (s.ir.toNat % 8192 + s.i.toNat)
      f := if s.ir.getLsbD 14 then .indirect else .execute, clock := s.clock + 1 }) := by
  have hft : (tick s).f = .indexed := hf
  rw [iterate_of_none hreq, phase_of_indexed hft, indexedPhase_eq]
  rfl

theorem iterate_of_indirect {s : State} (hf : s.f = .indirect) (hreq : s.interruptIn = none)
    (hv : s.ar.toNat < s.memLen) :
    iterate s = .next (freeSc { s with
      br := s.mem.get s.ar.toNat, ar := addrOfWord (s.mem.get s.ar.toNat), f := .execute, clock := s.clock + 1 }) := by
  have hft : (tick s).f = .indirect := hf
  rw [iterate_of_none hreq, phase_of_indirect hft]
  exact indirectPhase_valid hv

theorem iterate_of_fetch_invalid {s : State} (hf : s.f = .fetch) (hreq : s.interruptIn = none)
    (hv : s.memLen ≤ s.pc.toNat) :
    iterate s = raise (.outOfBounds s.pc) { s with ar := s.pc, clock := s.clock + 1 } := by
  have hft : (tick s).f = .fetch := hf
  rw [iterate_of_none hreq, phase_of_fetch hft]
  exact fetchPhase_invalid hv

theorem iterate_of_indirect_invalid {s : State} (hf : s.f = .indirect) (hreq : s.interruptIn = none)
    (hv : s.memLen ≤ s.ar.toNat) :
    iterate s = raise (.outOfBounds s.ar) { s with clock := s.clock + 1 } := by
  have hft : (tick s).f = .indirect := hf
  rw [iterate_of_none hreq, phase_of_indirect hft]
  exact indirectPhase_invalid hv

theorem iterations_of_execute {n : Nat} {s : State} (hf : s.f = .execute) (hreq : s.interruptIn = none) :
    iterations (n + 1) s = executePhase { s with clock := s.clock + 1 } := by
  have hft : (tick s).f = .execute := hf
  have hiter : iterate s = executePhase (tick s) := by rw [iterate_of_none hreq, phase_of_execute hft]
  rw [iterations_succ_of_end, hiter]
  · rfl
  · intro t ht
    rw [hiter] at ht
    rcases executePhase_next ht with ⟨i, _, hexec⟩ | ⟨op, _, rfl⟩
    · exact (exec_executes hexec).midInstruction
    · rfl

theorem phaseAfterFetch_ne_fetch (w : Word) : phaseAfterFetch w ≠ .fetch := by
  rw [phaseAfterFetch_eq_bits]
  split_ifs <;> simp

/-- What remains of the run after FETCH and INDEXED is two iterations at least. -/
theorem iterations_of_fetch {s : State} (hs : atFetch s) (hv : s.pc.toNat < s.memLen) :
    ∃ n k d, iterations 4 s = iterations (n + 2) { addressed s with sc := k, draws := d } := by
  obtain ⟨hrun, hf, hreq⟩ := hs
  rw [iterations_succ_of_mid (iterate_of_fetch hf hreq hv)
    (by simp [State.midInstruction, fetched, hrun, phaseAfterFetch_ne_fetch])]
  cases hx : (wordAtPc s).getLsbD 13 with
  | false =>
    refine ⟨1, Config.microStep s.draws, s.draws + 1, congrArg (iterations 3) ?_⟩
    simp only [freeSc, fetched, addressed, operandAddr, hx, addrOfWord_eq_ofNat_mod, phaseAfterFetch_eq_bits,
      Bool.false_eq_true, if_false, Nat.add_zero]
  | true =>
    have hnext : phaseAfterFetch (wordAtPc s) = .indexed := by rw [phaseAfterFetch_eq_bits, if_pos hx]
    refine ⟨0, Config.microStep (s.draws + 1), s.draws + 1 + 1,
      (iterations_succ_of_mid (iterate_of_indexed (s := freeSc (fetched s)) hnext hreq) ?_).trans
        (congrArg (iterations 2) ?_)⟩
    · simp only [State.midInstruction, freeSc, fetched, hrun]
      split_ifs <;> rfl
    · simp only [freeSc, fetched, addressed, operandAddr, hx, if_true]
      rfl

theorem toNat_addressed_ar (s : State) : (addressed s).ar.toNat = operandAddr s := by
  have hi := s.i.isLt
  refine (BitVec.toNat_ofNat _ _).trans (Nat.mod_eq_of_lt ?_)
  rw [operandAddr]
  split <;> omega

/-- The run that reaches EXECUTE performs it in the state of `atExecute`. -/
theorem step_eq_executePhase {s : State} (hs : reachesExecute s) :
    ∃ k d, step s = executePhase { atExecute s with sc := k, draws := d } := by
  obtain ⟨hs, hpc, hptr⟩ := hs
  obtain ⟨n, k, d, hfirst⟩ := iterations_of_fetch hs hpc
  obtain ⟨hrun, -, hreq⟩ := hs
  rw [step_of_running hrun, hfirst]
  cases hn : (wordAtPc s).getLsbD 14 with
  | false =>
    have hf : (addressed s).f = .execute := by simp only [addressed, hn, Bool.false_eq_true, if_false]
    refine ⟨k, d, (iterations_of_execute (s := { addressed s with sc := k, draws := d }) hf hreq).trans
      (congrArg executePhase ?_)⟩
    simp only [addressed, atExecute, arAtExecute, brAtExecute, phasesAtPc, hn, Bool.false_eq_true, if_false]
    split_ifs <;> rfl
  | true =>
    have hf : (addressed s).f = .indirect := by simp only [addressed, hn, if_true]
    have har := toNat_addressed_ar s
    have hread : (addressed s).ar.toNat < (addressed s).memLen := har ▸ hptr hn
    refine ⟨Config.microStep d, d + 1, ?_⟩
    rw [iterations_succ_of_mid (iterate_of_indirect (s := { addressed s with sc := k, draws := d }) hf hreq hread)
      (by simp [State.midInstruction, addressed, hrun])]
    refine (iterations_of_execute ?_ ?_).trans (congrArg executePhase ?_)
    · rfl
    · exact hreq
    · simp only [freeSc, har]
      simp only [addressed, atExecute, arAtExecute, brAtExecute, phasesAtPc, hn, if_true, addrOfWord_eq_ofNat_mod]
      split_ifs <;> rfl

/-- Settles O10: EXECUTE decodes the word that FETCH left in `IR`. -/
theorem stepRunsTheDecodedInstruction : Obligations.StepRunsTheDecodedInstruction := by
  intro s i hs hi
  obtain ⟨k, d, hstep⟩ := step_eq_executePhase hs
  refine ⟨k, d, hstep.trans ?_⟩
  simp only [executePhase, atExecute, hi]

/-- Settles O11: `InvalidOpcode` comes from EXECUTE; the default `OPC` has every number below 31. -/
theorem invalidOpcodeIsRaisedAfterTheAddressingPhases :
    Obligations.InvalidOpcodeIsRaisedAfterTheAddressingPhases := by
  refine ⟨fun s op hs hop => ?_, fun w => ?_, fun s g sub hs hsub => ?_⟩
  · obtain ⟨k, d, hstep⟩ := step_eq_executePhase hs
    rw [hstep]
    simp only [executePhase, atExecute, hop]
    exact ⟨_, _, rfl⟩
  · have hfree : ∀ g, Config.std.opc.get g ≠ 31 := by intro g; cases g <;> decide
    have hw := w.isLt
    rw [decode_eq_invalidOpcode_iff, and_iff_left hfree, ← BitVec.toNat_inj, toNat_opcodeField]
    change 31 = _ ↔ _
    omega
  · obtain ⟨k, d, hstep⟩ := step_eq_executePhase hs
    rw [hstep]
    simp only [executePhase, atExecute, hsub]

/-- Settles O12, by which of the two addresses is not present. -/
theorem fetchAndIndirectErrorsLeaveTheirState : Obligations.FetchAndIndirectErrorsLeaveTheirState := by
  intro s hs
  obtain ⟨hrun, hf, hreq⟩ := hs
  rw [step_of_running hrun]
  refine ⟨fun hpc => ?_, fun hpc hn hptr => ?_⟩
  · rw [iterations_succ_of_raise (iterate_of_fetch_invalid hf hreq hpc)]
    exact raises_raise _ _
  · obtain ⟨n, k, d, hfirst⟩ := iterations_of_fetch ⟨hrun, hf, hreq⟩ hpc
    have hfa : (addressed s).f = .indirect := by simp only [addressed, hn, if_true]
    have hv : (addressed s).memLen ≤ (addressed s).ar.toNat := toNat_addressed_ar s ▸ hptr
    rw [hfirst, iterations_succ_of_raise
      (iterate_of_indirect_invalid (s := { addressed s with sc := k, draws := d }) hfa hreq hv)]
    refine ⟨Config.microStep d, d + 1, congrArg Host.Outcome.next ?_⟩
    simp only [setStatus, freeSc, addressed, phasesAtPc, hn, if_true]
    split_ifs <;> rfl

/-- Settles O13: the first iteration is a FETCH, the second finds the request. -/
theorem interruptionStopsBetweenPhases : Obligations.InterruptionStopsBetweenPhases := by
  intro s hrun hf hv hreq
  have hft : (tick { s with interruptIn := some 0 }).f = .fetch := hf
  have hfirst : iterate s = .next (freeSc { fetched s with interruptIn := some 0 }) := by
    rw [iterate_of_pending hreq, phase_of_fetch hft]
    exact fetchPhase_valid hv
  have hsecond : iterate (freeSc { fetched s with interruptIn := some 0 }) =
      .next (setStatus .stopped (freeSc { fetched s with interruptIn := some 0 })) := iterate_of_found rfl
  rw [step_of_running hrun,
    iterations_succ_of_mid hfirst (by simp [State.midInstruction, fetched, hrun, phaseAfterFetch_ne_fetch]),
    iterations_succ_of_end (fun t ht => by cases hsecond.symm.trans ht; rfl), hsecond, ← addrOfWord_eq_ofNat_mod]
  exact ⟨_, _, rfl⟩

/-- Settles O14: no instruction counts `CLOCK` itself. -/
theorem instructionCostsItsPhasesInClockTicks : Obligations.InstructionCostsItsPhasesInClockTicks := by
  intro s t hs h
  obtain ⟨k, d, hstep⟩ := step_eq_executePhase hs
  rw [hstep] at h
  rcases executePhase_next h with ⟨i, _, hexec⟩ | ⟨op, _, rfl⟩
  · exact (exec_executes hexec).transfers.clock
  · rfl

/-- Settles O15: without INDIRECT the jump's `BR` is the instruction word itself, whatever INDEXED made of `AR`. -/
theorem indexedJumpWithoutIndirectionIgnoresTheIndex :
    Obligations.IndexedJumpWithoutIndirectionIgnoresTheIndex := by
  intro s x a hs hi
  obtain ⟨k, d, hstep⟩ := stepRunsTheDecodedInstruction s _ hs hi
  rw [jmpLoadsPcFromBr] at hstep
  obtain ⟨g, -, -, hmode, hfield⟩ := decode_readsAs hi
  have hn : (wordAtPc s).getLsbD 14 = false := (congrArg Mode.n hmode).symm
  have ha : a = low13 (wordAtPc s) := hfield.mpr rfl
  refine ⟨_, hstep, ?_, rfl⟩
  simp only [ended, atExecute, brAtExecute, hn, ha, Bool.false_eq_true, if_false, low13, BitVec.toNat_ofNat,
    BitVec.toNat_setWidth]
  omega

end Sys2Proof.Proofs
end

section
/-! What a step that goes on can have done (40_instruction_cycle.md R100, R101, R114): the phases before EXECUTE leave
alone what the instructions work on, then at most one instruction is executed. -/

namespace Sys2Proof.Proofs

open Sys2Proof.Machine Sys2Proof.Claims

/-- `u` is reached from `s` without EXECUTE: what the instructions work on is as before, `PC` apart, which a FETCH
counts up. -/
structure Reaches (s u : State) : Prop where
  a : u.a = s.a
  x : u.x = s.x
  i : u.i = s.i
  sp : u.sp = s.sp
  flagV : u.flagV = s.flagV
  flagZ : u.flagZ = s.flagZ
  flagS : u.flagS = s.flagS
  flagH : u.flagH = s.flagH
  mem : u.mem = s.mem
  memLen : u.memLen = s.memLen
  cfg : u.cfg = s.cfg
  output : u.output = s.output
  pc : s.memLen ≤ 8192 → s.pc.toNat ≤ 8192 → u.pc.toNat ≤ 8192

/-- What each phase finds on the way from a FETCH at `s`, the request of the host left aside. -/
structure OnWay (s u : State) : Prop where
  fetch : u.f = .fetch → u.pc = s.pc
  indexed : u.f = .indexed → u.ir = wordAtPc s ∧ (wordAtPc s).getLsbD 13 = true
  indirect : u.f = .indirect → u.ar = BitVec.ofNat 16 (operandAddr s) ∧ (wordAtPc s).getLsbD 14 = true
  execute : u.f = .execute → u.ar = arAtExecute s

theorem OnWay.of_indexed {s u : State} (hf : u.f = .indexed) (hir : u.ir = wordAtPc s)
    (hx : (wordAtPc s).getLsbD 13 = true) : OnWay s u := by
  constructor <;> simp only [hf, reduceCtorEq, false_implies, true_implies]
  exact ⟨hir, hx⟩

theorem OnWay.of_indirect {s u : State} (hf : u.f = .indirect) (har : u.ar = BitVec.ofNat 16 (operandAddr s))
    (hn : (wordAtPc s).getLsbD 14 = true) : OnWay s u := by
  constructor <;> simp only [hf, reduceCtorEq, false_implies, true_implies]
  exact ⟨har, hn⟩

theorem OnWay.of_execute {s u : State} (hf : u.f = .execute) (har : u.ar = arAtExecute s) : OnWay s u := by
  constructor <;> simp only [hf, reduceCtorEq, false_implies, true_implies]
  exact har

/-- Before INDIRECT or EXECUTE, by bit 14, `AR` is the operand with the index (R110). -/
theorem OnWay.of_operandAddr {s u : State} (har : u.ar = BitVec.ofNat 16 (operandAddr s))
    (hf : u.f = if (wordAtPc s).getLsbD 14 then .indirect else .execute) : OnWay s u := by
  cases hn : (wordAtPc s).getLsbD 14 with
  | true => exact .of_indirect (by rw [hf, if_pos hn]) har hn
  | false =>
    refine .of_execute ?_ ?_
    · simp only [hf, hn, Bool.false_eq_true, if_false]
    · simp only [har, arAtExecute, hn, Bool.false_eq_true, if_false]

/-- The run that began at `s` is at `u`, before EXECUTE. -/
structure Underway (s u : State) : Prop where
  reaches : Reaches s u
  running : u.status = .running
  onWay : s.f = .fetch → OnWay s u

/-- The two ways a step of a running core goes on: the run ends before EXECUTE, or EXECUTE is the last phase. -/
inductive RunsTo (s t : State) : Prop
  | ended (h : Reaches s t) (hstatus : t.status = .stopped ∨ ∃ e, t.status = .faulted e)
  | executed (u : State) (i : Instr) (h : Underway s u) (hf : u.f = .execute) (hi : decode u.cfg u.ir = .ok i)
      (hexec : Executes i.mnemonic u t)

/-- How many iterations an instruction whose next phase is this one can still take (R114). -/
def phasesLeft (f : Phase) : Nat :=
  match f with
  | .fetch => 4
  | .indexed => 3
  | .indirect => 2
  | .execute => 1

/-- The rule of the run loop: `P` holds before every iteration of an instruction, `Q` after its last. -/
theorem iterations_rule {P Q : State → Prop}
    (hiter : ∀ u v, P u → iterate u = .next v →
      (v.midInstruction = true ∧ P v ∧ phasesLeft v.f < phasesLeft u.f) ∨ (v.midInstruction = false ∧ Q v)) :
    ∀ (n : Nat) (u v : State), phasesLeft u.f ≤ n → P u → iterations n u = .next v → Q v := by
  intro n
  induction n with
  | zero =>
    intro u v hn
    cases hf : u.f <;> simp [hf, phasesLeft] at hn
  | succ n ih =>
    intro u v hn hu h
    simp only [iterations] at h
    split at h
    · rename_i w hw
      rcases hiter u w hu hw with ⟨hmid, hPw, hlt⟩ | ⟨hmid, hQw⟩
      · rw [if_pos hmid] at h
        exact ih w v (by omega) hPw h
      · rw [hmid] at h
        exact Host.Outcome.next.inj h ▸ hQw
    · cases h
    · cases h

/-- A FETCH of a present word counts `PC` up to 0x2000 at most (D5). -/
theorem toNat_pc_add_one_le {s : State} (hv : s.pc.toNat < s.memLen) (hlen : s.memLen ≤ 8192) :
    (s.pc + 1).toNat ≤ 8192 := by
  rw [BitVec.toNat_add]
  exact (Nat.mod_le _ _).trans (Nat.succ_le_of_lt (Nat.lt_of_lt_of_le hv hlen))

theorem phasesLeft_phaseAfterFetch_lt (w : Word) : phasesLeft (phaseAfterFetch w) < phasesLeft .fetch := by
  rw [phaseAfterFetch_eq_bits]
  split_ifs <;> decide

section Phases
variable {s u : State} (h : Underway s u)
include h

theorem Underway.after_fetch (hf : u.f = .fetch) (hv : u.pc.toNat < u.memLen) :
    Underway s (freeSc { u with
      br := wordAtPc u, pc := u.pc + 1, ir := wordAtPc u
      ar := addrOfWord (wordAtPc u), f := phaseAfterFetch (wordAtPc u) }) where
  reaches := { h.reaches with pc := fun hlen _ => toNat_pc_add_one_le hv (h.reaches.memLen ▸ hlen) }
  running := h.running
  onWay hs := by
    have hw : wordAtPc u = wordAtPc s := by rw [wordAtPc, wordAtPc, h.reaches.mem, (h.onWay hs).fetch hf]
    have har : addrOfWord (wordAtPc u) = BitVec.ofNat 16 ((wordAtPc s).toNat % 8192) := by
      rw [hw, addrOfWord_eq_ofNat_mod]
    have hnext : phaseAfterFetch (wordAtPc u) = _ := (congrArg _ hw).trans (phaseAfterFetch_eq_bits _)
    cases hx : (wordAtPc s).getLsbD 13 with
    | true => exact .of_indexed (hnext.trans (if_pos hx)) hw hx
    | false =>
      simp only [hx, Bool.false_eq_true, if_false] at hnext
      refine .of_operandAddr (har.trans ?_) hnext
      simp only [operandAddr, hx, Bool.false_eq_true, if_false, Nat.add_zero]

theorem Underway.after_indexed (hf : u.f = .indexed) :
    Underway s (freeSc { u with
      ar := BitVec.ofNat 16 (u.ir.toNat % 8192 + u.i.toNat)
      f := if u.ir.getLsbD 14 then .indirect else .execute }) where
  reaches := { h.reaches with }
  running := h.running
  onWay hs := by
    obtain ⟨hir, hx⟩ := (h.onWay hs).indexed hf
    refine .of_operandAddr ?_ ?_
    · simp only [freeSc_ar, hir, h.reaches.i, operandAddr, hx, if_true]
    · simp only [freeSc_f, hir]

theorem Underway.after_indirect (hf : u.f = .indirect) :
    Underway s (freeSc { u with
      br := u.mem.get u.ar.toNat, ar := addrOfWord (u.mem.get u.ar.toNat), f := .execute }) where
  reaches := { h.reaches with }
  running := h.running
  onWay hs := by
    obtain ⟨har, hn⟩ := (h.onWay hs).indirect hf
    have har' : u.ar.toNat = operandAddr s := by rw [har]; exact toNat_addressed_ar s
    refine .of_execute rfl ?_
    simp only [freeSc_ar, addrOfWord_eq_ofNat_mod, h.reaches.mem, har', arAtExecute, brAtExecute, hn, if_true]

/-- One phase: on to the next one, or the instruction's last. -/
theorem Underway.after_phase {v : State} (hv : phase u = .next v) :
    (v.midInstruction = true ∧ Underway s v ∧ phasesLeft v.f < phasesLeft u.f) ∨
      (v.midInstruction = false ∧ RunsTo s v) := by
  cases hf : u.f with
  | fetch =>
    rw [phase_of_fetch hf] at hv
    rcases fetchPhase_next hv with ⟨hpc, rfl⟩ | ⟨_, rfl⟩
    · refine .inl ⟨?_, h.after_fetch hf hpc, phasesLeft_phaseAfterFetch_lt _⟩
      simp [State.midInstruction, h.running, phaseAfterFetch_ne_fetch]
    · exact .inr ⟨rfl, .ended { h.reaches with } (.inr ⟨_, rfl⟩)⟩
  | indexed =>
    rw [phase_of_indexed hf, indexedPhase_eq] at hv
    cases hv
    refine .inl ⟨?_, h.after_indexed hf, ?_⟩
    · simp only [State.midInstruction, freeSc, h.running]
      split_ifs <;> rfl
    · simp only [freeSc]
      split_ifs <;> decide
  | indirect =>
    rw [phase_of_indirect hf] at hv
    rcases indirectPhase_next hv with ⟨_, rfl⟩ | ⟨_, rfl⟩
    · refine .inl ⟨?_, h.after_indirect hf, Nat.lt_succ_self 1⟩
      simp [State.midInstruction, h.running]
    · exact .inr ⟨rfl, .ended { h.reaches with } (.inr ⟨_, rfl⟩)⟩
  | execute =>
    rw [phase_of_execute hf] at hv
    rcases executePhase_next hv with ⟨i, hi, hexec⟩ | ⟨op, _, rfl⟩
    · have hex := exec_executes hexec
      exact .inr ⟨hex.midInstruction, .executed u i h hf hi hex⟩
    · exact .inr ⟨rfl, .ended { h.reaches with } (.inr ⟨_, rfl⟩)⟩

theorem Underway.after_tick (k : Option Nat) : Underway s (tick { u with interruptIn := k }) where
  reaches := { h.reaches with }
  running := h.running
  onWay hs := { h.onWay hs with }

/-- One iteration: on to the next phase, or the instruction's last. -/
theorem Underway.after_iterate {v : State} (hv : iterate u = .next v) :
    (v.midInstruction = true ∧ Underway s v ∧ phasesLeft v.f < phasesLeft u.f) ∨
      (v.midInstruction = false ∧ RunsTo s v) := by
  rcases iterate_next hv with ⟨_, rfl⟩ | ⟨k, hphase⟩
  · exact .inr ⟨rfl, .ended { h.reaches with } (.inl rfl)⟩
  · exact (h.after_tick k).after_phase hphase

end Phases

theorem Underway.refl {s : State} (hs : s.status = .running) : Underway s s where
  reaches := ⟨rfl, rfl, rfl, rfl, rfl, rfl, rfl, rfl, rfl, rfl, rfl, rfl, fun _ h => h⟩
  running := hs
  onWay hf := by constructor <;> simp [hf]

/-- Everything a step that goes on can be. -/
theorem step_cases {s t : State} (h : step s = .next t) :
    (s.status = .running ∧ RunsTo s t) ∨
      (s.status = .waitingInput ∧ (t = s ∨ Executes .inp s t)) := by
  rcases step_next h with ⟨hs, hrun⟩ | ⟨hs, rfl | hinp⟩
  · have hfuel : phasesLeft s.f ≤ 4 := by cases s.f <;> decide
    exact .inl ⟨hs, iterations_rule (fun u v hu hv => Underway.after_iterate hu hv) 4 s t hfuel (.refl hs) hrun⟩
  · exact .inr ⟨hs, .inl rfl⟩
  · rw [← exec_inp ⟨false, false⟩ s 0] at hinp
    exact .inr ⟨hs, .inr (exec_executes hinp)⟩

end Sys2Proof.Proofs
end

section
/-! The statements about every step, each from what the phases before EXECUTE leave alone and what the one instruction
can have done. -/

namespace Sys2Proof.Proofs

open Sys2Proof.Machine Sys2Proof.Claims

/-- What the phases before EXECUTE and every instruction keep, every step keeps. -/
theorem step_keeps_of_executes {P : State → Prop} (hReaches : ∀ s u, Reaches s u → P s → P u)
    (hExecutes : ∀ m s t, Executes m s t → P s → P t) {s t : State} (hs : P s) (h : step s = .next t) : P t := by
  rcases step_cases h with ⟨_, ⟨hr, _⟩ | ⟨u, i, hu, _, _, hex⟩⟩ | ⟨_, rfl | hex⟩
  · exact hReaches s t hr hs
  · exact hExecutes _ u t hex (hReaches s u hu.reaches hs)
  · exact hs
  · exact hExecutes _ s t hex hs

/-! Memory. -/

theorem memoryWf_iff {s : State} :
    s.memoryWf = true ↔ s.mem.wf = true ∧ s.mem.below s.memLen = true ∧ s.memLen ≤ 8192 := by
  simp [State.memoryWf, and_assoc]

theorem Reaches.memoryWf {s u : State} (h : Reaches s u) (hs : s.memoryWf = true) : u.memoryWf = true := by
  rwa [State.memoryWf, h.mem, h.memLen]

theorem memoryWf_of_set {s t : State} {k : Nat} {w : Word} (hs : s.memoryWf = true) (hk : k < s.memLen)
    (hmem : t.mem = s.mem.set k w) (hlen : t.memLen = s.memLen) : t.memoryWf = true := by
  obtain ⟨hwf, hbelow, hmax⟩ := memoryWf_iff.mp hs
  rw [memoryWf_iff, hmem, hlen]
  exact ⟨Memory.wf_set hwf k w, Memory.below_set hbelow hk w, hmax⟩

theorem Transfers.memoryWf {m : Mnemonic} {s t : State} (h : Transfers m s t) (hs : s.memoryWf = true) :
    t.memoryWf = true := by
  rcases h.mem with hmem | ⟨_, _, hk, _, hmem⟩ | ⟨_, _, hk, _, hmem⟩
  · rwa [State.memoryWf, hmem, h.memLen]
  · exact memoryWf_of_set hs hk hmem h.memLen
  · exact memoryWf_of_set hs hk hmem h.memLen

/-- Settles O46: only a store at an address below `MEMLEN` writes memory. -/
theorem stepKeepsMemoryWellFormed : Obligations.StepKeepsMemoryWellFormed := fun _ _ hs h =>
  step_keeps_of_executes (P := (·.memoryWf = true)) (fun _ _ hr => hr.memoryWf)
    (fun _ _ _ hex => hex.transfers.memoryWf) hs h

/-- The instruction in `IR` after EXECUTE is the one that was executed. -/
theorem executed_of_executes {u t : State} {i : Instr} {ms : List Mnemonic} (hi : decode u.cfg u.ir = .ok i)
    (hex : Executes i.mnemonic u t) (hm : i.mnemonic ∈ ms) : executed t ms :=
  ⟨i, by rw [hex.transfers.cfg, hex.transfers.ir]; exact hi, hm⟩

/-- Settles O52: the effective address is the one on the way from the FETCH. -/
theorem oneStepChangesAtMostOneWord : Obligations.OneStepChangesAtMostOneWord := by
  intro s t h
  rcases step_cases h with ⟨_, ⟨hr, _⟩ | ⟨u, i, hu, hf, hi, hex⟩⟩ | ⟨_, rfl | hex⟩
  · exact .inl hr.mem
  · obtain ⟨hreaches, -, honWay⟩ := hu
    rcases hex.transfers.mem with hmem | ⟨hm, har, hk, w, hmem⟩ | ⟨hm, hsp, hk, w, hmem⟩
    · exact .inl (hmem.trans hreaches.mem)
    · rw [← har, hreaches.memLen] at hk
      rw [← har, hreaches.mem] at hmem
      exact .inr (.inl ⟨executed_of_executes hi hex hm, fun hs => har.trans ((honWay hs).execute hf), hk,
        fun l hl => hmem ▸ Memory.get_set_other hl w⟩)
    · rw [hreaches.sp, hreaches.memLen] at hk
      rw [hreaches.sp, hreaches.mem] at hmem
      exact .inr (.inr ⟨executed_of_executes hi hex hm, hreaches.sp ▸ hsp, hk,
        fun l hl => hmem ▸ Memory.get_set_other hl w⟩)
  · exact .inl rfl
  · rcases hex.transfers.mem with hmem | ⟨hm, _⟩ | ⟨hm, _⟩
    · exact .inl hmem
    · exact absurd hm (by decide)
    · exact absurd hm (by decide)

/-! Registers, flags and output. -/

theorem Reaches.flagsDescribeA {s u : State} (h : Reaches s u) (hs : s.flagsDescribeA = true) :
    u.flagsDescribeA = true := by
  rwa [State.flagsDescribeA, h.flagZ, h.flagS, h.a]

/-- Settles O48: an instruction that changes `A` ends with the flag-update step. -/
theorem stepKeepsFlagsDescribingA : Obligations.StepKeepsFlagsDescribingA := fun _ _ hs h =>
  step_keeps_of_executes (P := (·.flagsDescribeA = true)) (fun _ _ hr => hr.flagsDescribeA)
    (fun _ _ _ hex => hex.flagsDescribeA) hs h

/-- Settles O49: neither the phases before EXECUTE nor an instruction write a parameter or `MEMLEN`. -/
theorem stepKeepsTheConfiguration : Obligations.StepKeepsTheConfiguration := fun s _ h =>
  step_keeps_of_executes (P := fun t => t.cfg = s.cfg ∧ t.memLen = s.memLen)
    (fun _ _ hr ⟨hcfg, hlen⟩ => ⟨hr.cfg.trans hcfg, hr.memLen.trans hlen⟩)
    (fun _ _ _ hex ⟨hcfg, hlen⟩ => ⟨hex.transfers.cfg.trans hcfg, hex.transfers.memLen.trans hlen⟩)
    ⟨rfl, rfl⟩ h

/-- Settles O50: a core that makes a step has `H` clear, and of all that can end it only `HLT` sets it. -/
theorem onlyHltSetsH : Obligations.OnlyHltSetsH := by
  intro s t hs h
  rcases step_cases h with ⟨hrun, ⟨hr, hst⟩ | ⟨u, i, hu, _, hi, hex⟩⟩ | ⟨hwait, rfl | hex⟩
  · have hH : t.flagH = false := by
      rw [hr.flagH]
      simpa [State.haltAgrees, hrun] using hs
    rcases hst with hst | ⟨e, hst⟩ <;> simp [State.haltAgrees, hst, hH]
  · have hH : u.flagH = false := by
      rw [hu.reaches.flagH]
      simpa [State.haltAgrees, hrun] using hs
    obtain ⟨hagrees, hhlt⟩ := hex.haltAgrees hH (.inl hu.running)
    exact ⟨hagrees, fun hHt => executed_of_executes hi hex (by simp [hhlt hHt])⟩
  · have hH : t.flagH = false := by simpa [State.haltAgrees, hwait] using hs
    exact ⟨hs, by simp [hH]⟩
  · have hH : s.flagH = false := by simpa [State.haltAgrees, hwait] using hs
    obtain ⟨hagrees, hhlt⟩ := hex.haltAgrees hH (.inr rfl)
    exact ⟨hagrees, fun hHt => absurd (hhlt hHt) (by decide)⟩

/-- Settles O51: the registers are as before when EXECUTE begins, and each is written by its instructions only. -/
theorem registersAreWrittenOnlyByTheirInstructions : Obligations.RegistersAreWrittenOnlyByTheirInstructions := by
  intro s t h
  rcases step_cases h with ⟨_, ⟨hr, _⟩ | ⟨u, i, hu, _, hi, hex⟩⟩ | ⟨hwait, rfl | hex⟩
  · exact ⟨absurd hr.a, absurd hr.x, absurd hr.i, absurd hr.sp, absurd hr.flagV⟩
  · have hr := hu.reaches
    have ht := hex.transfers
    rw [← hr.a, ← hr.x, ← hr.i, ← hr.sp, ← hr.flagV]
    exact ⟨fun ha => .inl (executed_of_executes hi hex (ht.a ha)), fun hx => executed_of_executes hi hex (ht.x hx),
      fun hi' => executed_of_executes hi hex (ht.i hi'), fun hsp => executed_of_executes hi hex (ht.sp hsp),
      fun hV => executed_of_executes hi hex (ht.flagV hV)⟩
  · exact ⟨absurd rfl, absurd rfl, absurd rfl, absurd rfl, absurd rfl⟩
  · have ht := hex.transfers
    exact ⟨fun _ => .inr hwait, fun hx => absurd (ht.x hx) (by decide), fun hi => absurd (ht.i hi) (by decide),
      fun hsp => absurd (ht.sp hsp) (by decide), fun hV => absurd (ht.flagV hV) (by decide)⟩

/-- Settles O53: of the transfers of all instructions only those of `OUT` touch the output. -/
theorem outputOnlyGrowsAtOut : Obligations.OutputOnlyGrowsAtOut := by
  intro s t h
  rcases step_cases h with ⟨_, ⟨hr, _⟩ | ⟨u, i, hu, _, hi, hex⟩⟩ | ⟨_, rfl | hex⟩
  · exact .inl hr.output
  · rw [← hu.reaches.output]
    exact hex.transfers.output.imp_right fun ⟨hout, hm⟩ => ⟨hout, executed_of_executes hi hex (by simp [hm])⟩
  · exact .inl rfl
  · exact .inl (hex.transfers.output.resolve_right (by simp))

/-! `PC` and the phase. -/

theorem Transfers.pc_le {m : Mnemonic} {s t : State} (h : Transfers m s t) (hs : s.pc.toNat ≤ 8192) :
    t.pc.toNat ≤ 8192 := by
  rcases h.pc with hpc | ⟨v, hpc⟩
  · rwa [hpc]
  · rw [hpc, addrOfField, BitVec.toNat_setWidth_of_le (by decide)]
    exact v.isLt.le

/-- Settles O54: a FETCH counts `PC` up from below `MEMLEN`, and a jump loads 13 bits. -/
theorem stepKeepsPcInReach : Obligations.StepKeepsPcInReach := by
  intro s t hwf hpc h
  obtain ⟨-, -, hlen⟩ := memoryWf_iff.mp hwf
  have hkept := step_keeps_of_executes (P := fun t => t.memLen ≤ 8192 ∧ t.pc.toNat ≤ 8192)
    (fun _ _ hr ⟨hl, hp⟩ => ⟨hr.memLen ▸ hl, hr.pc hl hp⟩)
    (fun _ _ _ hex ⟨hl, hp⟩ => ⟨hex.transfers.memLen ▸ hl, hex.transfers.pc_le hp⟩)
    ⟨hlen, of_decide_eq_true hpc⟩ h
  exact decide_eq_true hkept.2

/-- Settles O55: EXECUTE is the last phase, and only a waiting `INP` leaves it open. -/
theorem stepEndsBetweenInstructions : Obligations.StepEndsBetweenInstructions := by
  intro s t hs h
  rcases step_cases h with ⟨_, ⟨_, hst⟩ | ⟨u, i, hu, hf, _, hex⟩⟩ | ⟨hwait, rfl | hex⟩
  · rcases hst with hst | ⟨e, hst⟩ <;> simp [State.phaseAgrees, hst]
  · exact hex.phaseAgrees hf (.inl hu.running)
  · exact hs
  · have hf : s.f = .execute := by simpa [State.phaseAgrees, hwait] using hs
    exact hex.phaseAgrees hf (.inr rfl)

end Sys2Proof.Proofs
end

section
/-! What a step does not read: `SC` (10_state.md R22, decision D17), and at a FETCH `AR`, `BR` and `IR` (R18 to R20). -/

namespace Sys2Proof.Proofs

open Sys2Proof.Machine Sys2Proof.Claims

theorem execInp_sc (s : State) (k : BitVec 2) : execInp { s with sc := k } = execInp s := rfl

theorem endExecute_addToA_sc (b : Word) (s : State) (k : BitVec 2) :
    endExecute (addToA b { s with sc := k }) = endExecute (addToA b s) := rfl

theorem jumpIf_sc (taken : Bool) (s : State) (k : BitVec 2) : jumpIf taken { s with sc := k } = jumpIf taken s := by
  cases taken <;> rfl

/-- Every instruction writes `SC` or leaves it to a free value, and reads it nowhere. -/
theorem exec_sc (i : Instr) (s : State) (k : BitVec 2) : exec i { s with sc := k } = exec i s := by
  cases i with
  | inp => exact execInp_sc s k
  | jpn | jag | jpz | jig => exact jumpIf_sc _ s k
  | jpo =>
    rw [exec_jpo, exec_jpo]
    split <;> rfl
  | dca => exact endExecute_addToA_sc _ s k
  | _ => rfl

theorem executePhase_sc (s : State) (k : BitVec 2) : executePhase { s with sc := k } = executePhase s := by
  simp only [executePhase, exec_sc]
  rfl

theorem phase_sc (s : State) (k : BitVec 2) : phase { s with sc := k } = phase s := by
  simp only [phase, executePhase_sc]
  rfl

theorem resumeInput_withoutSc (s : State) (k : BitVec 2) :
    withoutSc (resumeInput { s with sc := k }) = withoutSc (resumeInput s) := by
  simp only [resumeInput, execInp_sc]
  split <;> rfl

theorem interruptIn_cases (s : State) :
    s.interruptIn = some 0 ∨ s.interruptIn = none ∨ ∃ j, s.interruptIn = some (j + 1) := by
  rcases s.interruptIn with _ | _ | j <;> simp

theorem iterations_congr {s t : State} (h : iterate s = iterate t) (n : Nat) :
    iterations (n + 1) s = iterations (n + 1) t := by
  simp only [iterations, h]

theorem iterations_of_found {s : State} (h : s.interruptIn = some 0) (n : Nat) :
    iterations (n + 1) s = .next (setStatus .stopped s) := by
  rw [iterations_succ_of_end, iterate_of_found h]
  intro t ht
  cases (iterate_of_found h).symm.trans ht
  rfl

/-- Only a stop, which writes nothing but the status, leaves `SC` as it was. -/
theorem iterations_withoutSc (n : Nat) (s : State) (k : BitVec 2) :
    withoutSc (iterations (n + 1) { s with sc := k }) = withoutSc (iterations (n + 1) s) := by
  rcases interruptIn_cases s with h | h | ⟨j, h⟩
  · rw [iterations_of_found h, iterations_of_found (s := { s with sc := k }) h]
    rfl
  · refine congrArg withoutSc (iterations_congr ?_ n)
    rw [iterate_of_none h, iterate_of_none (s := { s with sc := k }) h]
    exact phase_sc (tick s) k
  · refine congrArg withoutSc (iterations_congr ?_ n)
    rw [iterate_of_pending h, iterate_of_pending (s := { s with sc := k }) h]
    exact phase_sc (tick { s with interruptIn := some j }) k

/-- Settles O56: the run, the wait and the faults in turn. -/
theorem scIsReadByNothing : Obligations.ScIsReadByNothing := by
  intro s k
  simp only [step, advance, instruction]
  split
  · exact iterations_withoutSc 3 s k
  · exact resumeInput_withoutSc s k
  all_goals rfl

/-- A FETCH of a present word overwrites `AR`, `BR` and `IR` (R18 to R20). -/
theorem phase_of_fetch_overwrites {s : State} (hf : s.f = .fetch) (hv : s.pc.toNat < s.memLen) (ar : Addr)
    (br ir : Word) : phase { s with ar := ar, br := br, ir := ir } = phase s := by
  rw [phase_of_fetch hf, phase_of_fetch (s := { s with ar := ar, br := br, ir := ir }) hf, fetchPhase_valid hv,
    fetchPhase_valid (s := { s with ar := ar, br := br, ir := ir }) hv]
  rfl

/-- Settles O57: with no request found, the first iteration is that FETCH. -/
theorem arBrAndIrDoNotCarryOver : Obligations.ArBrAndIrDoNotCarryOver := by
  intro s ar br ir hrun hf hreq hv
  rw [step_of_running hrun, step_of_running (s := { s with ar := ar, br := br, ir := ir }) hrun]
  refine iterations_congr ?_ 3
  rcases interruptIn_cases s with h | h | ⟨j, h⟩
  · exact absurd h hreq
  · rw [iterate_of_none h, iterate_of_none (s := { s with ar := ar, br := br, ir := ir }) h]
    exact phase_of_fetch_overwrites (s := tick s) hf hv ar br ir
  · rw [iterate_of_pending h, iterate_of_pending (s := { s with ar := ar, br := br, ir := ir }) h]
    exact phase_of_fetch_overwrites (s := tick { s with interruptIn := some j }) hf hv ar br ir

end Sys2Proof.Proofs
end

section
/-! Reset, load and the end of a run (70_reset_and_hazards.md R260 to R264): an image read back from the memory made of
it, and that of a run under way no step is a fault. -/

namespace Sys2Proof.Proofs

open Sys2Proof.Machine Sys2Proof.Claims

/-- The memory made of an image holds its words (R262). -/
theorem get_ofImage {image : List Word} {j : Nat} {w : Word} (h : image[j]? = some w) (k : Nat) :
    (Memory.ofImage k image).get (k + j) = w := by
  induction image generalizing j k with
  | nil => simp at h
  | cons v rest ih =>
    cases j with
    | zero =>
      obtain rfl : v = w := by simpa using h
      simp only [Memory.ofImage, Nat.add_zero]
      split
      · rename_i hv
        rw [hv]
        exact Memory.get_of_all_above fun c hc => (Memory.mem_ofImage hc).1
      · simp [Memory.get]
    | succ j =>
      have hget := ih (by simpa using h) (k + 1)
      rw [Nat.add_assoc, Nat.add_comm 1 j] at hget
      simp only [Memory.ofImage]
      split
      · exact hget
      · simp only [Memory.get]
        rw [if_neg (by omega)]
        exact hget

/-- Settles O44: the load is accepted, and the image's memory reads back. -/
theorem loadReplacesMemoryAndResets : Obligations.LoadReplacesMemoryAndResets := by
  intro image s hs hlen
  have hload : hostCall (.load image) s = .next (loadImage image s) := by
    simp [hostCall, hs, hlen]
  refine ⟨_, hload, rfl, fun k w hk => ?_, rfl⟩
  have hget := get_ofImage hk 0
  rwa [Nat.zero_add] at hget

/-- Settles O47: every register of the reset state is 0, its memory empty, its status idle. -/
theorem resetMeetsTheInvariants : Obligations.ResetMeetsTheInvariants :=
  ⟨rfl, rfl, rfl, rfl, by decide, rfl⟩

/-! A step of a run under way is no fault. -/

theorem memRead_ne_fault {addr : Addr} {s : State} {k : Word → Out} {r : Fault} (hk : ∀ w, k w ≠ .fault r) :
    memRead addr s k ≠ .fault r := by
  unfold memRead
  split
  · exact hk _
  · simp [raise]

theorem exec_ne_fault (i : Instr) (s : State) (r : Fault) : exec i s ≠ .fault r := by
  obtain ⟨t, ht, -⟩ := exec_goesOn i s
  simp [ht]

theorem phase_ne_fault (s : State) (r : Fault) : phase s ≠ .fault r := by
  cases hf : s.f with
  | fetch =>
    rw [phase_of_fetch hf, fetchPhase]
    refine memRead_ne_fault fun w => ?_
    simp
  | indexed => simp [phase_of_indexed hf, indexedPhase]
  | indirect =>
    rw [phase_of_indirect hf, indirectPhase]
    refine memRead_ne_fault fun w => ?_
    simp
  | execute =>
    rw [phase_of_execute hf, executePhase]
    split
    · exact exec_ne_fault _ s r
    · simp [raise]
    · simp

theorem iterate_ne_fault (s : State) (r : Fault) : iterate s ≠ .fault r := by
  rcases interruptIn_cases s with h | h | ⟨j, h⟩
  · simp [iterate_of_found h]
  · exact iterate_of_none h ▸ phase_ne_fault _ r
  · exact iterate_of_pending h ▸ phase_ne_fault _ r

theorem iterations_ne_fault (n : Nat) (s : State) (r : Fault) : iterations n s ≠ .fault r := by
  induction n generalizing s with
  | zero => simp [iterations]
  | succ n ih =>
    simp only [iterations]
    split
    · split
      · exact ih _
      · simp
    · exact absurd ‹_› (iterate_ne_fault s _)
    · simp

theorem resumeInput_ne_fault (s : State) (r : Fault) : resumeInput s ≠ .fault r := by
  unfold resumeInput
  split
  · simp
  · exact exec_ne_fault (.inp ⟨false, false⟩ 0) s r

/-- Settles O45, by the status. -/
theorem endedRunMakesNoStep : Obligations.EndedRunMakesNoStep := by
  intro s
  simp only [step, advance, instruction]
  split <;> rename_i hs
  · simp [State.underWay, hs, iterations_ne_fault]
  · simp [State.underWay, hs, resumeInput_ne_fault]
  all_goals simp [State.underWay, hs]

end Sys2Proof.Proofs
end

section
/-! The memory image text (30_encoding.md R90): a numeral read back, a line read back, then the lines in turn. And the
two pseudo-operations that lay words out (R86, R87). -/

namespace Sys2Proof.Proofs

open Sys2Proof.Machine Sys2Proof.Claims

/-! Splitting text at a character. -/

theorem splitAtChar_append {sep : Char} {p : List Char} (hp : sep ∉ p) (rest : List Char) :
    splitAtChar sep (p ++ sep :: rest) = p :: splitAtChar sep rest := by
  induction p with
  | nil => simp [splitAtChar]
  | cons c p ih =>
    obtain ⟨hc, hp⟩ := List.ne_and_not_mem_of_not_mem_cons hp
    simp only [List.cons_append, splitAtChar, if_neg (Ne.symm hc), ih hp]

theorem splitAtChar_of_not_mem {sep : Char} {p : List Char} (hp : sep ∉ p) : splitAtChar sep p = [p] := by
  induction p with
  | nil => rfl
  | cons c p ih =>
    obtain ⟨hc, hp⟩ := List.ne_and_not_mem_of_not_mem_cons hp
    simp only [splitAtChar, if_neg (Ne.symm hc), ih hp]

/-! Binary numerals. -/

theorem mem_binaryDigits {n v : Nat} {c : Char} (h : c ∈ binaryDigits n v) : c = '0' ∨ c = '1' := by
  induction n with
  | zero => simp [binaryDigits] at h
  | succ n ih =>
    rcases List.mem_cons.mp h with rfl | h
    · split <;> simp
    · exact ih h

theorem not_mem_binaryDigits {c : Char} (hc : c ≠ '0' ∧ c ≠ '1') (n v : Nat) : c ∉ binaryDigits n v :=
  fun h => (mem_binaryDigits h).elim hc.1 hc.2

/-- The low `n` digits are read as the value modulo `2 ^ n`. -/
theorem readBinary_binaryDigits (acc n v : Nat) :
    readBinary acc (binaryDigits n v) = some (acc * 2 ^ n + v % 2 ^ n) := by
  induction n generalizing acc with
  | zero => simp [binaryDigits, readBinary, Nat.mod_one]
  | succ n ih =>
    rw [binaryDigits, Nat.mod_pow_succ, ← Nat.toNat_testBit]
    cases v.testBit n with
    | false =>
      simp only [readBinary, Bool.false_eq_true, if_false, if_true, ih, Bool.toNat_false]
      exact congrArg some (by ring)
    | true =>
      simp only [readBinary, if_true, ih, Bool.toNat_true, if_neg (show ('1' : Char) ≠ '0' by decide)]
      ring_nf

/-! One line. -/

/-- The line of one cell without its line break. -/
def cellText (k : Nat) (w : Word) : List Char := binaryDigits 13 k ++ '\t' :: binaryDigits 20 w.toNat

theorem imageLine_eq (k : Nat) (w : Word) : imageLine k w = cellText k w ++ ['\n'] := by
  simp [imageLine, cellText]

theorem newline_not_mem_cellText (k : Nat) (w : Word) : '\n' ∉ cellText k w := by
  simp [cellText, not_mem_binaryDigits]

theorem cellText_not_blank (k : Nat) (w : Word) : (cellText k w).all (·.isWhitespace) = false := by
  rw [List.all_eq_false]
  refine ⟨if k.testBit 12 then '1' else '0', by simp [cellText, binaryDigits], ?_⟩
  split <;> decide

theorem readImageLine_cellText {k : Nat} (hk : k < 8192) (w : Word) : readImageLine (cellText k w) = some (k, w) := by
  have htab : ∀ n v, '\t' ∉ binaryDigits n v := not_mem_binaryDigits (by decide)
  have hsplit : splitAtChar '\t' (cellText k w) = [binaryDigits 13 k, binaryDigits 20 w.toNat] := by
    rw [cellText, splitAtChar_append (htab _ _), splitAtChar_of_not_mem (htab _ _)]
  have hne : ∀ n v, binaryDigits (n + 1) v ≠ [] := by simp [binaryDigits]
  have hw : w.toNat % 2 ^ 20 = w.toNat := Nat.mod_eq_of_lt w.isLt
  have hk : k % 2 ^ 13 = k := Nat.mod_eq_of_lt hk
  simp only [readImageLine, hsplit, hne, or_self, if_false, readBinary_binaryDigits, Nat.zero_mul, Nat.zero_add, hw, hk,
    if_pos w.isLt, BitVec.ofNat_toNat, BitVec.setWidth_eq]

/-! The lines in turn. -/

theorem imageWrite_length (image : List Word) (w : Word) : imageWrite image image.length w = image ++ [w] := by
  simp [imageWrite]

theorem readImageLines_imageText (image rest : List Word) (h : image.length + rest.length ≤ 8192) :
    readImageLines image (splitAtChar '\n' (imageText image.length rest)) = some (image ++ rest) := by
  induction rest generalizing image with
  | nil => simp [imageText, splitAtChar, readImageLines]
  | cons w rest ih =>
    have hk : image.length < 8192 := by simp at h; omega
    have hih := ih (image ++ [w]) (by simp at h ⊢; omega)
    simp only [List.length_append, List.length_singleton, List.append_assoc, List.singleton_append] at hih
    rw [imageText, imageLine_eq, List.append_assoc, List.singleton_append,
      splitAtChar_append (newline_not_mem_cellText _ _)]
    simp only [readImageLines, cellText_not_blank, readImageLine_cellText hk, imageWrite_length, hih,
      Bool.false_eq_true, if_false]

/-- Settles O58: the reading starts from the empty image. -/
theorem imageTextReadsBackAsTheImage : Obligations.ImageTextReadsBackAsTheImage := fun image h =>
  readImageLines_imageText [] image (by simpa using h)

/-! `RES` and `CON`. -/

/-- Settles O59: the zeros stand behind the old words. -/
theorem reserveGrowsWithoutWriting : Obligations.ReserveGrowsWithoutWriting := by
  intro st n
  refine ⟨rfl, ?_, fun k hk => ?_, fun k hlo hhi => ?_⟩
  · simp only [AsmState.reserve, List.length_append, List.length_replicate]
    omega
  · exact List.getElem?_append_left hk
  · simp only [AsmState.reserve]
    rw [List.getElem?_append_right hlo, List.getElem?_replicate, if_pos (by omega)]

theorem length_imageWrite (image : List Word) (k : Nat) (w : Word) :
    (imageWrite image k w).length = max image.length (k + 1) := by
  simp only [imageWrite, List.length_set, List.length_append, List.length_replicate]
  omega

theorem getElem?_imageWrite_same (image : List Word) (k : Nat) (w : Word) : (imageWrite image k w)[k]? = some w := by
  have hk : k < (image ++ List.replicate (k + 1 - image.length) 0).length := by
    simp only [List.length_append, List.length_replicate]
    omega
  exact List.getElem?_set_self hk

theorem getElem?_imageWrite_other {image : List Word} {k l : Nat} (w : Word) (hl : l < image.length) (hkl : k ≠ l) :
    (imageWrite image k w)[l]? = image[l]? := by
  rw [imageWrite, List.getElem?_set_ne hkl, List.getElem?_append_left hl]

/-- Settles O60, by the arguments in turn: the rest of them write behind the first. -/
theorem conWritesItsValuesInTurn : Obligations.ConWritesItsValuesInTurn := by
  intro args
  induction args with
  | nil =>
    intro st t h
    cases h
    simp
  | cons arg rest ih =>
    intro st t h
    simp only [emitConstants] at h
    split at h
    · rename_i v hv
      obtain ⟨hcursor, hvalues, hothers⟩ := ih _ _ h
      have hlen : (st.emit (BitVec.ofInt 20 v)).image.length = max st.image.length (st.cursor + 1) :=
        length_imageWrite _ _ _
      have hnext : (st.emit (BitVec.ofInt 20 v)).cursor = st.cursor + 1 := rfl
      refine ⟨?_, fun j a hj => ?_, fun k hk hspan => ?_⟩
      · rw [hcursor, hnext, List.length_cons]
        omega
      · cases j with
        | zero =>
          obtain rfl : arg = a := by simpa using hj
          refine ⟨v, hv, ?_⟩
          rw [Nat.add_zero, hothers _ (by omega) (by omega)]
          exact getElem?_imageWrite_same _ _ _
        | succ j =>
          obtain ⟨u, hu, hword⟩ := hvalues j a (by simpa using hj)
          rw [hnext, Nat.add_assoc, Nat.add_comm 1 j] at hword
          exact ⟨u, hu, hword⟩
      · rw [List.length_cons] at hspan
        rw [hothers k (by omega) (by omega)]
        exact getElem?_imageWrite_other _ hk (by omega)
    · cases h

end Sys2Proof.Proofs
end
